-- ==== Sys2Proof/Word.lean ====
section
/-! DEFINITION. The byte, word and bit-sequence types of the block (00_scope.md R9). -/

namespace Sys2Proof

/-- A byte: 8 bits, unsigned (R9). -/
abbrev Byte := BitVec 8

/-- A 16-bit value: checksum, command length, cadence. -/
abbrev Half := BitVec 16

/-- A 32-bit value: command header, unique-word window, callsign code. -/
abbrev Word := BitVec 32

/-- A byte sequence; index 0 is the first byte transmitted, received or supplied (R9). -/
abbrev Bytes := List Byte

/-- A bit sequence in stream order; index 0 is the first bit (R9). -/
abbrev Bits := List Bool

end Sys2Proof
end

