-- ==== Sys2Proof/Config.lean ====
section
/-! DEFINITION. The parameters of the block: the constants of the reference configuration
(00_scope.md R5) and the three parameters the source leaves open (R6). -/

namespace Sys2Proof

/-- Which numbers other than 0 are the code of a time value: the parameter `TS` (R6, R35). Nothing is
known of it (log 1). -/
opaque Config.isTimeCode : Nat → Bool

/-- The type `TS` of the time value `NOW` (R6, R35), an open parameter of the block: its values are
the numbers that `Config.isTimeCode` admits, and 0. Every nonempty type whose values can be written
out has this form for some choice of codes; the block only stores and reports a value, so the codes
have no other meaning (log 1). -/
structure TimeStamp where
  raw : Nat
  legal : raw = 0 ∨ Config.isTimeCode raw = true
deriving DecidableEq, Repr

/-- The time value of code 0, which every `TS` has. -/
def TimeStamp.zero : TimeStamp := ⟨0, .inl rfl⟩

/-- The time value of a given code; that of code 0 where there is none. -/
def TimeStamp.ofCode (n : Nat) : TimeStamp :=
  if h : Config.isTimeCode n = true then ⟨n, .inr h⟩ else .zero

/-- A connection table. `h p i` is the 0-based information bit of connection `i` of row `p`, that
is `HROWS(p, i) - 1`: the type has exactly the values of a well-formed entry (R140, I2). Only
`p < 516` and `i < 12` are ever looked up. -/
abbrev HTable := Nat → Nat → Fin 2064

namespace Config

/-- `K`: information bits of a FEC block (R5). -/
abbrev infoBits : Nat := 2064
/-- `KB`: information bytes of a FEC block (R5). -/
abbrev infoBytes : Nat := 258
/-- `M`: parity bits of a FEC block (R5). -/
abbrev parityBits : Nat := 516
/-- `W`: connections of a parity bit (R5). -/
abbrev rowWeight : Nat := 12
/-- `MB`: parity bytes of a FEC block (R5). -/
abbrev parityBytes : Nat := 65
/-- `PLEN`: payload bytes of a frame (R5). -/
abbrev payloadLen : Nat := 256
/-- `PRE_LEN`: preamble bytes (R5). -/
abbrev preambleLen : Nat := 16
/-- `PRE_BYTE`: the preamble byte (R5). -/
abbrev preambleByte : Byte := 0x55
/-- `UW`: the unique word in stream order (R5). -/
abbrev uniqueWord : Bytes := [0xAB, 0xCD, 0xEF, 0x01]
/-- The unique word as the 32-bit value the recognizer compares (R93). -/
abbrev uniqueWordValue : Word := 0xABCDEF01
/-- `PAD_BYTE`: fill byte of a short payload (R5). -/
abbrev padByte : Byte := 0x55
/-- `CRC_POLY` (R5). -/
abbrev crcPoly : Half := 0x1021
/-- `CRC_INIT` (R5). -/
abbrev crcInit : Half := 0xFFFF
/-- `FLEN0`: frame bytes without parity (R5). -/
abbrev frameLen0 : Nat := 278
/-- `FLEN1`: frame bytes with parity (R5). -/
abbrev frameLen1 : Nat := 343
/-- Bytes captured after the unique word when `RXFEC = 0` (R173). -/
abbrev captureLen0 : Nat := 258
/-- Bytes captured after the unique word when `RXFEC = 1` (R173). -/
abbrev captureLen1 : Nat := 323
/-- `IDLE_BYTE` (R5). -/
abbrev idleByte : Byte := 0x56
/-- `CALL_BASE` (R5). -/
abbrev callBase : Nat := 40
/-- `GPS_LEN` (R5): a consumer reads this many bytes of a GPS slice. -/
abbrev gpsLen : Nat := 35

/-- `CALL_ALPHA` (R5, R107): 40 characters, index 0 first. -/
abbrev callAlpha : List Char :=
  ['-', '0', '1', '2', '3', '4', '5', '6', '7', '8', '9', '-', '-', '-',
   'A', 'B', 'C', 'D', 'E', 'F', 'G', 'H', 'I', 'J', 'K', 'L', 'M',
   'N', 'O', 'P', 'Q', 'R', 'S', 'T', 'U', 'V', 'W', 'X', 'Y', 'Z']

/-- `HROWS` (R6, R21): the contents are not in the source; nothing is known of them (log 2). -/
opaque hrows : HTable

/-- `IBUF_CAP - 1` when the image buffer is bounded, `none` when it is unbounded (log 3). -/
opaque ibufCapPred : Option Nat

/-- `IBUF_CAP` (R6): a natural number at least 1, or unbounded (`none`). -/
def ibufCap : Option Nat := ibufCapPred.map (· + 1)

/-- The code of `NOW` on the `n`-th line of a listing that leaves `now=` out (log 16). -/
opaque arbitraryNowCode : Nat → Nat

/-- The value of `NOW` on the `n`-th line of a listing that leaves `now=` out: "an arbitrary value"
(30_encoding.md R116; log 16). -/
def arbitraryNow (n : Nat) : TimeStamp := .ofCode (arbitraryNowCode n)

end Config

end Sys2Proof
end

