-- ==== Sys2Proof/Machine/Bytes.lean ====
section
/-! DEFINITION. Byte sequences, byte order and bit order: the notation of 00_scope.md R9 to R11 and
the assembly rules of 20_memory.md R62 to R68 and 30_encoding.md R118. -/

namespace Sys2Proof

/-- `B[a]` (R9). The rules never index past the end; the model answers 0 there (log 13). -/
def byteAt (B : Bytes) (a : Nat) : Byte := B.getD a 0

/-- `lo8(v)` (R10). -/
def lo8 (v : Half) : Byte := v.extractLsb' 0 8

/-- `hi8(v)` (R10). -/
def hi8 (v : Half) : Byte := v.extractLsb' 8 8

/-- The 16-bit value of two bytes, the first more significant. -/
def pair16 (hi lo : Byte) : Half := hi ++ lo

/-- The 32-bit value of four bytes, the first most significant. -/
def quad32 (b0 b1 b2 b3 : Byte) : Word := b0 ++ b1 ++ b2 ++ b3

/-- `BE16(B, a)` (R10). -/
def be16 (B : Bytes) (a : Nat) : Half := pair16 (byteAt B a) (byteAt B (a + 1))

/-- `LE16(B, a)` (R10, R64). -/
def le16 (B : Bytes) (a : Nat) : Half := pair16 (byteAt B (a + 1)) (byteAt B a)

/-- `BE32(B, a)` (R10). -/
def be32 (B : Bytes) (a : Nat) : Word :=
  quad32 (byteAt B a) (byteAt B (a + 1)) (byteAt B (a + 2)) (byteAt B (a + 3))

/-- A 16-bit value as bytes, most significant first. -/
def be16Bytes (v : Half) : Bytes := [hi8 v, lo8 v]

/-- A 16-bit value as bytes, least significant first (R64). -/
def le16Bytes (v : Half) : Bytes := [lo8 v, hi8 v]

/-- A 32-bit value as bytes, most significant first. -/
def be32Bytes (v : Word) : Bytes :=
  [v.extractLsb' 24 8, v.extractLsb' 16 8, v.extractLsb' 8 8, v.extractLsb' 0 8]

/-- `MemRead(S, a, n)` (R11): the `n` elements of buffer `S` from offset `a`; those of
them that exist (log 13). -/
def memRead {α : Type} (S : List α) (a n : Nat) : List α := (S.drop a).take n

/-- `MemWrite(S, a, len(v), v)` (R11): buffer `S` with `v` from offset `a`. A write at the end of the
buffer appends, as `IBUF` grows (20_memory.md R74). A write that starts past the end, or reaches over
the end of a buffer of fixed size, is in no rule; there the model puts `v` after the bytes below `a`
that exist, so that the buffer grows. DESIGN CHOICE (log 13). -/
def memWrite {α : Type} (S : List α) (a : Nat) (v : List α) : List α :=
  S.take a ++ v ++ S.drop (a + v.length)

/-- `rep(b, n)`: `n` copies of a byte, or of a bit (R9). -/
def rep {α : Type} (b : α) (n : Nat) : List α := List.replicate n b

/-- Bit `j` in stream order of a byte sequence, most significant bit of each byte first (R62, R66). -/
def streamBit (B : Bytes) (j : Nat) : Bool := (byteAt B (j / 8)).getLsbD (7 - j % 8)

/-- The byte whose bits, most significant first, are `f 0, …, f 7` (R65, R118). -/
def packByte (f : Nat → Bool) : Byte :=
  (List.range 8).foldl (fun v t => v + if f t then BitVec.ofNat 8 (2 ^ (7 - t)) else 0) 0

/-- Whether a list has at least `n` elements. -/
def hasAtLeast {α : Type} : Nat → List α → Bool
  | 0, _ => true
  | _ + 1, [] => false
  | n + 1, _ :: l => hasAtLeast n l

/-- The `n` bytes of a number, most significant first. -/
def beBytesOfNat (n w : Nat) : Bytes :=
  (List.range n).map fun k => BitVec.ofNat 8 (w / 256 ^ (n - 1 - k))

end Sys2Proof
end

