-- ==== Sys2Proof/Machine/Crc.lean ====
section
/-! DEFINITION. The checksum unit `CRC`: CRC-16/CCITT-FALSE (41_crc_framer.md R150). -/

namespace Sys2Proof.Machine

/-- One shift of the checksum register (R150). -/
def crcShift (c : Half) : Half :=
  if 0x8000#16 ≤ c then (c * 2) ^^^ Config.crcPoly else c * 2

/-- One byte: into the high half, then eight shifts (R150). -/
def crcByte (c : Half) (b : Byte) : Half := crcShift^[8] (c ^^^ pair16 b 0)

/-- The register after a byte sequence, from a starting value. -/
def crcFrom (c : Half) (B : Bytes) : Half := B.foldl crcByte c

/-- `CRC16(B)` (R150). -/
def crc16 (B : Bytes) : Half := crcFrom Config.crcInit B

end Sys2Proof.Machine
end

