-- ==== Sys2Proof/Machine/Callsign.lean ====
section
/-! DEFINITION. The callsign code (30_encoding.md R107, 44_packet_types.md R237, R238). -/

namespace Sys2Proof.Machine

/-- The character of a base-40 digit (R107). -/
def callChar (d : Nat) : Char := Config.callAlpha.getD d '-'

/-- The loop of `CallDecode` (R237), least significant digit first, for at most `fuel` digits. -/
def callDigits : Nat → Nat → List Char
  | 0, _ => []
  | fuel + 1, x =>
      if x = 0 then [] else callChar (x % Config.callBase) :: callDigits fuel (x / Config.callBase)

/-- `CallDecode(code)` (R237). Seven digits always suffice, since `2^32 < 40^7` (R107). -/
def callDecode (code : Word) : List Char := callDigits 7 code.toNat

/-- The code a consumer's encoder computes from digits, least significant first:
`sum of digit_k * 40^k` (R238). The block has no callsign encoder. -/
def callCode : List Nat → Nat
  | [] => 0
  | d :: ds => d + Config.callBase * callCode ds

end Sys2Proof.Machine
end

