-- ==== Sys2Proof/Syntax.lean ====
section
/-! DEFINITION. The instructions of the block: one constructor for each row of
spec/opcode_table.json, the eight commands, the seven packet types and the two frame formats. -/

namespace Sys2Proof

/-- The fields of a `GPS` layout, bytes 1..34 of the slice (30_encoding.md R101). Floats are carried
as 32-bit patterns. -/
structure GpsFields where
  week : Half
  towMs : Word
  leapS : Byte
  lat : Word
  lon : Word
  alt : Word
  groundSpeed : Word
  heading : Word
  ascentRate : Word
  numSV : Byte
  fixStatus : Byte
  dynamicModel : Byte
deriving DecidableEq, Repr

/-- The header fields of an `SSDV` layout, bytes 1..10 of the slice (30_encoding.md R105). -/
structure SsdvHeader where
  fecInd : Byte
  code : Word
  imageId : Byte
  packetId : Half
  width16 : Byte
  height16 : Byte
deriving DecidableEq, Repr

/-- The instructions. Commands hold their data bytes (R108, R111); packet types hold the fields of
their layout and the bytes that no field covers (R100 to R106); frames hold the fields of the frame
(R91, R92). `now` is the value `NOW` the host presents beside a receive command (R35, R108); for a
packet type or a frame it is that of the command that brings it. -/
inductive Instr where
  /-- `FEC_ENCODE` (R141). -/
  | fecEncode (data : Bytes)
  /-- `CRC16` (R151). -/
  | crc16 (data : Bytes)
  /-- `FRAME` (R156). -/
  | frame (fec : Bool) (data : Bytes)
  /-- `RX_BYTES` (R171). -/
  | rxBytes (now : TimeStamp) (data : Bytes)
  /-- `RX_SLICE` (R182). -/
  | rxSlice (now : TimeStamp) (data : Bytes)
  /-- `RESET` (R261). -/
  | reset
  /-- `SET_CONFIG` (R262). -/
  | setConfig (cfg : Byte) (ncad : Half)
  /-- `GET_STATUS` (R263). -/
  | getStatus
  /-- `TEXT_MESSAGE` (R100, R230); `rest` is bytes 4..255, the text and the padding after it. -/
  | textMessage (length : Byte) (seq : Half) (rest : Bytes)
  /-- `GPS_TELEMETRY` (R101, R231); `rest` is bytes 35..255. -/
  | gpsTelemetry (fields : GpsFields) (rest : Bytes)
  /-- `ORIENTATION_TELEMETRY` (R102, R232); `rest` is bytes 8..255, of unknown layout. -/
  | orientationTelemetry (week : Half) (towMs : Word) (leapS : Byte) (rest : Bytes)
  /-- `SEC_PAYLOAD_TELEMETRY` (R103, R233); `data` is bytes 2..255. -/
  | secPayloadTelemetry (subid : Byte) (data : Bytes)
  /-- `IMAGE_TELEMETRY` (R104, R234); `rest` is bytes 1..255, of unknown layout. -/
  | imageTelemetry (rest : Bytes)
  /-- `SSDV` (R105, R235); `rest` is bytes 11..255. -/
  | ssdv (now : TimeStamp) (header : SsdvHeader) (rest : Bytes)
  /-- `IDLE` (R106, R236); `rest` is bytes 1..255. -/
  | idle (rest : Bytes)
  /-- `FRAME0` (R91): a frame without parity on the receive byte stream. -/
  | frame0 (now : TimeStamp) (preamble payload : Bytes) (checksum : Half)
  /-- `FRAME1` (R92): a frame with parity on the receive byte stream. -/
  | frame1 (now : TimeStamp) (preamble payload : Bytes) (checksum : Half) (parity : Bytes)
deriving DecidableEq, Repr

/-- The formats of the opcode table (30_encoding.md R90). -/
inductive Format where
  | cmd
  | slice
  | frame0
  | frame1
deriving DecidableEq, Repr

namespace Instr

/-- The format of an instruction's encoding, as the opcode table gives it. -/
def format : Instr → Format
  | .fecEncode _ | .crc16 _ | .frame _ _ | .rxBytes _ _ | .rxSlice _ _ => .cmd
  | .reset | .setConfig _ _ | .getStatus => .cmd
  | .textMessage _ _ _ | .gpsTelemetry _ _ | .orientationTelemetry _ _ _ _ => .slice
  | .secPayloadTelemetry _ _ | .imageTelemetry _ | .ssdv _ _ _ | .idle _ => .slice
  | .frame0 _ _ _ _ => .frame0
  | .frame1 _ _ _ _ _ => .frame1

/-- The value `NOW` carried beside an instruction's encoding, where it uses one. -/
def now? : Instr → Option TimeStamp
  | .rxBytes now _ | .rxSlice now _ | .ssdv now _ _ => some now
  | .frame0 now _ _ _ | .frame1 now _ _ _ _ => some now
  | .fecEncode _ | .crc16 _ | .frame _ _ | .reset | .setConfig _ _ | .getStatus => none
  | .textMessage _ _ _ | .gpsTelemetry _ _ | .orientationTelemetry _ _ _ _ => none
  | .secPayloadTelemetry _ _ | .imageTelemetry _ | .idle _ => none

end Instr

end Sys2Proof
end

