-- ==== Sys2Proof/WellFormed.lean ====
section
/-! DEFINITION. Which terms of `Instr` are instructions: the lengths the formats fix
(30_encoding.md R91, R92, R97, R100 to R106, R108). -/

namespace Sys2Proof

/-- A command's data fits the 16-bit length field (R108). -/
def dataFits (data : Bytes) : Bool := decide (data.length < 65536)

/-- Every byte sequence of the instruction has the length its format gives it. -/
def Instr.wellFormed : Instr → Bool
  | .fecEncode data => dataFits data
  | .crc16 data => dataFits data
  | .frame _ data => dataFits data
  | .rxBytes _ data => dataFits data
  | .rxSlice _ data => dataFits data
  | .reset => true
  | .setConfig _ _ => true
  | .getStatus => true
  | .textMessage _ _ rest => rest.length == 252
  | .gpsTelemetry _ rest => rest.length == 221
  | .orientationTelemetry _ _ _ rest => rest.length == 248
  | .secPayloadTelemetry _ data => data.length == 254
  | .imageTelemetry rest => rest.length == 255
  | .ssdv _ _ rest => rest.length == 245
  | .idle rest => rest.length == 255
  | .frame0 _ preamble payload _ => preamble.length == 16 && payload.length == 256
  | .frame1 _ preamble payload _ parity =>
      preamble.length == 16 && payload.length == 256 && parity.length == 65

end Sys2Proof
end

