-- ==== Sys2Proof/Decode.lean ====
section
/-! DEFINITION. The decoder, total on any bytes and rejecting by name, and the encoder
(30_encoding.md R90 to R111). The block decodes three kinds of word: a command at the command port,
a slice at the classifier, a frame on the receive byte stream. -/

namespace Sys2Proof

/-- Why bytes are no instruction. -/
inductive DecodeError where
  /-- The header matches no row of R109 (R110). -/
  | illegalHeader (header : Word)
  /-- A slice or a frame has not the length of its format (R183, R91, R92). -/
  | wrongLength (length : Nat)
  /-- Byte 0 of a slice is one of the 249 reserved type codes (R99). -/
  | reservedType (type : Byte)
  /-- Bytes 16..19 of a frame are not the unique word (R180). -/
  | noUniqueWord
deriving DecidableEq, Repr

/-! ### Commands -/

/-- The operations of R109. -/
inductive CmdOp where
  | fecEncode | crc16 | frame | rxBytes | rxSlice | reset | setConfig | getStatus
deriving DecidableEq, Repr

/-- A row of the operation-code table of R109: match and mask over the 32-bit header. -/
structure CmdRow where
  op : CmdOp
  pattern : Word
  mask : Word
deriving DecidableEq, Repr

/-- The table of R109. -/
def cmdTable : List CmdRow :=
  [⟨.fecEncode, 0x01000000, 0xFFFF0000⟩,
   ⟨.crc16, 0x02000000, 0xFFFF0000⟩,
   ⟨.frame, 0x03000000, 0xFFFE0000⟩,
   ⟨.rxBytes, 0x10000000, 0xFFFF0000⟩,
   ⟨.rxSlice, 0x11000000, 0xFFFF0000⟩,
   ⟨.reset, 0x20000000, 0xFFFFFFFF⟩,
   ⟨.setConfig, 0x21000003, 0xFFFFFFFF⟩,
   ⟨.getStatus, 0x22000000, 0xFFFFFFFF⟩]

/-- A header matches a row of R109. -/
def CmdRow.matches (r : CmdRow) (header : Word) : Bool := header &&& r.mask == r.pattern

/-- The operation whose row the header matches (R109, R260). -/
def opOfHeader (header : Word) : Option CmdOp := (cmdTable.find? (·.matches header)).map (·.op)

/-- Field `op`, header bits 31:24 (R108, R109). -/
def headerOp (header : Word) : Byte := header.extractLsb' 24 8

/-- Field `flags`, header bits 23:16. -/
def headerFlags (header : Word) : Byte := header.extractLsb' 16 8

/-- Field `len`, header bits 15:0: `BE16(cmd, 2)` (R118). -/
def headerLen (header : Word) : Half := header.extractLsb' 0 16

/-- Flag bit 0 of a `FRAME` command, `fec` (R109). -/
def headerFec (header : Word) : Bool := (headerFlags header).getLsbD 0

/-- A command taken whole from the bytes at the port: its header, its `len` data bytes, and the
bytes after it. -/
structure TakenCommand where
  header : Word
  data : Bytes
  after : Bytes
deriving DecidableEq, Repr

/-- The first command of a byte sequence, header and all `len` data bytes (R108, R260); none while
it is not there whole. -/
def takeCommand : Bytes → Option TakenCommand
  | b0 :: b1 :: b2 :: b3 :: tail =>
      let header := quad32 b0 b1 b2 b3
      let len := (headerLen header).toNat
      if hasAtLeast len tail then some ⟨header, tail.take len, tail.drop len⟩ else none
  | _ => none

/-- The instruction of a command, by the header's row (R109, R111). -/
def decodeCommand (now : TimeStamp) (header : Word) (data : Bytes) : Except DecodeError Instr :=
  match opOfHeader header with
  | none => .error (.illegalHeader header)
  | some .fecEncode => .ok (.fecEncode data)
  | some .crc16 => .ok (.crc16 data)
  | some .frame => .ok (.frame (headerFec header) data)
  | some .rxBytes => .ok (.rxBytes now data)
  | some .rxSlice => .ok (.rxSlice now data)
  | some .reset => .ok .reset
  | some .setConfig => .ok (.setConfig (byteAt data 0) (be16 data 1))
  | some .getStatus => .ok .getStatus

/-! ### Slices -/

/-- The packet types of R98. -/
inductive PacketType where
  | textMessage | gpsTelemetry | orientationTelemetry | secPayloadTelemetry
  | imageTelemetry | ssdv | idle
deriving DecidableEq, Repr

/-- The type code of a packet type: byte 0 of its slice (R98). -/
def PacketType.code : PacketType → Byte
  | .textMessage => 0x00
  | .gpsTelemetry => 0x01
  | .orientationTelemetry => 0x02
  | .secPayloadTelemetry => 0x03
  | .imageTelemetry => 0x54
  | .ssdv => 0x55
  | .idle => 0x56

/-- The rows of R98. -/
def packetTable : List PacketType :=
  [.textMessage, .gpsTelemetry, .orientationTelemetry, .secPayloadTelemetry,
   .imageTelemetry, .ssdv, .idle]

/-- The packet type a byte selects, none for the 249 reserved codes (R98, R99). -/
def packetTypeOf (b : Byte) : Option PacketType := packetTable.find? fun t => t.code == b

/-- The fields of a `GPS` slice (R101). -/
def gpsFieldsOf (s : Bytes) : GpsFields where
  week := be16 s 1
  towMs := be32 s 3
  leapS := byteAt s 7
  lat := be32 s 8
  lon := be32 s 12
  alt := be32 s 16
  groundSpeed := be32 s 20
  heading := be32 s 24
  ascentRate := be32 s 28
  numSV := byteAt s 32
  fixStatus := byteAt s 33
  dynamicModel := byteAt s 34

/-- The header fields of an `SSDV` slice (R105). -/
def ssdvHeaderOf (s : Bytes) : SsdvHeader where
  fecInd := byteAt s 1
  code := be32 s 2
  imageId := byteAt s 6
  packetId := be16 s 7
  width16 := byteAt s 9
  height16 := byteAt s 10

/-- The instruction of a slice (R97 to R106). -/
def decodeSlice (now : TimeStamp) (s : Bytes) : Except DecodeError Instr :=
  if s.length ≠ Config.payloadLen then .error (.wrongLength s.length)
  else
    match packetTypeOf (byteAt s 0) with
    | none => .error (.reservedType (byteAt s 0))
    | some .textMessage => .ok (.textMessage (byteAt s 1) (be16 s 2) (s.drop 4))
    | some .gpsTelemetry => .ok (.gpsTelemetry (gpsFieldsOf s) (s.drop 35))
    | some .orientationTelemetry =>
        .ok (.orientationTelemetry (be16 s 1) (be32 s 3) (byteAt s 7) (s.drop 8))
    | some .secPayloadTelemetry => .ok (.secPayloadTelemetry (byteAt s 1) (s.drop 2))
    | some .imageTelemetry => .ok (.imageTelemetry (s.drop 1))
    | some .ssdv => .ok (.ssdv now (ssdvHeaderOf s) (s.drop 11))
    | some .idle => .ok (.idle (s.drop 1))

/-! ### Frames -/

/-- The instruction of a frame on the byte stream; `fec` says which of the two formats is meant,
since a frame does not tell (R115). The preamble is not examined (R179). -/
def decodeFrame (fec : Bool) (now : TimeStamp) (f : Bytes) : Except DecodeError Instr :=
  if f.length ≠ (if fec then Config.frameLen1 else Config.frameLen0) then
    .error (.wrongLength f.length)
  else if memRead f 16 4 ≠ Config.uniqueWord then .error .noUniqueWord
  else if fec then
    .ok (.frame1 now (memRead f 0 16) (memRead f 20 256) (le16 f 276) (memRead f 278 65))
  else .ok (.frame0 now (memRead f 0 16) (memRead f 20 256) (le16 f 276))

/-- The instruction a unit of a given format holds: a command's bytes are exactly one command. -/
def decode (format : Format) (now : TimeStamp) (bytes : Bytes) : Except DecodeError Instr :=
  match format with
  | .cmd =>
      match takeCommand bytes with
      | some c => if c.after = [] then decodeCommand now c.header c.data
                  else .error (.wrongLength bytes.length)
      | none => .error (.wrongLength bytes.length)
  | .slice => decodeSlice now bytes
  | .frame0 => decodeFrame false now bytes
  | .frame1 => decodeFrame true now bytes

/-! ### The encoder -/

/-- The four header bytes of a command (R108). -/
def cmdHeader (op flags : Byte) (len : Nat) : Bytes :=
  [op, flags] ++ be16Bytes (BitVec.ofNat 16 len)

/-- A whole command: header, then the data bytes (R108). -/
def cmdBytes (op flags : Byte) (data : Bytes) : Bytes := cmdHeader op flags data.length ++ data

/-- The slice of a `TEXT` layout (R100). -/
def textSlice (length : Byte) (seq : Half) (rest : Bytes) : Bytes :=
  [PacketType.code .textMessage, length] ++ be16Bytes seq ++ rest

/-- The slice of a `GPS` layout (R101). -/
def gpsSlice (g : GpsFields) (rest : Bytes) : Bytes :=
  [PacketType.code .gpsTelemetry] ++ be16Bytes g.week ++ be32Bytes g.towMs ++ [g.leapS]
    ++ be32Bytes g.lat ++ be32Bytes g.lon ++ be32Bytes g.alt ++ be32Bytes g.groundSpeed
    ++ be32Bytes g.heading ++ be32Bytes g.ascentRate
    ++ [g.numSV, g.fixStatus, g.dynamicModel] ++ rest

/-- The slice of an `ORIENT` layout (R102). -/
def orientSlice (week : Half) (towMs : Word) (leapS : Byte) (rest : Bytes) : Bytes :=
  [PacketType.code .orientationTelemetry] ++ be16Bytes week ++ be32Bytes towMs ++ [leapS] ++ rest

/-- The slice of a `SECPL` layout (R103). -/
def secplSlice (subid : Byte) (data : Bytes) : Bytes :=
  [PacketType.code .secPayloadTelemetry, subid] ++ data

/-- The slice of an `IMGTLM` layout (R104). -/
def imgtlmSlice (rest : Bytes) : Bytes := PacketType.code .imageTelemetry :: rest

/-- The slice of an `SSDV` layout (R105). -/
def ssdvSlice (h : SsdvHeader) (rest : Bytes) : Bytes :=
  [PacketType.code .ssdv, h.fecInd] ++ be32Bytes h.code ++ [h.imageId] ++ be16Bytes h.packetId
    ++ [h.width16, h.height16] ++ rest

/-- The slice of an `IDLE` layout (R106). -/
def idleSlice (rest : Bytes) : Bytes := PacketType.code .idle :: rest

/-- The bytes of a frame (R72, R91, R92): the checksum low byte first, the parity empty in a
`FRAME0`. -/
def frameBytes (preamble payload : Bytes) (checksum : Half) (parity : Bytes) : Bytes :=
  preamble ++ Config.uniqueWord ++ payload ++ le16Bytes checksum ++ parity

/-- The bytes of an instruction in its format. `NOW` is not part of the encoding (R108). -/
def encode : Instr → Bytes
  | .fecEncode data => cmdBytes 0x01 0x00 data
  | .crc16 data => cmdBytes 0x02 0x00 data
  | .frame fec data => cmdBytes 0x03 (if fec then 0x01 else 0x00) data
  | .rxBytes _ data => cmdBytes 0x10 0x00 data
  | .rxSlice _ data => cmdBytes 0x11 0x00 data
  | .reset => cmdBytes 0x20 0x00 []
  | .setConfig cfg ncad => cmdBytes 0x21 0x00 (cfg :: be16Bytes ncad)
  | .getStatus => cmdBytes 0x22 0x00 []
  | .textMessage length seq rest => textSlice length seq rest
  | .gpsTelemetry g rest => gpsSlice g rest
  | .orientationTelemetry week towMs leapS rest => orientSlice week towMs leapS rest
  | .secPayloadTelemetry subid data => secplSlice subid data
  | .imageTelemetry rest => imgtlmSlice rest
  | .ssdv _ h rest => ssdvSlice h rest
  | .idle rest => idleSlice rest
  | .frame0 _ preamble payload checksum => frameBytes preamble payload checksum []
  | .frame1 _ preamble payload checksum parity => frameBytes preamble payload checksum parity

/-! ### Table words -/

/-- The bytes of an instruction whose table bits are `w`, zero above the table's bits: the format
is told by `nbits`. A command row has 32 bits, the header read big-endian; a slice row has 8, its
type byte; a frame row has 160, the first 20 bytes read as one big-endian number. The two frame rows
have the same word, and it stands for the format of the reset configuration, `FRAME1` (R22, R115;
log 9); the whole lengths 8 * 278 and 8 * 343 name the two apart. -/
def tableUnit (nbits w : Nat) : Option (Format × Bytes) :=
  if nbits = 32 then some (.cmd, beBytesOfNat 4 w ++ rep 0 (w % 65536))
  else if nbits = 8 then some (.slice, beBytesOfNat 1 w ++ rep 0 255)
  else if nbits = 160 then some (.frame1, beBytesOfNat 20 w ++ rep 0 323)
  else if nbits = 2224 then some (.frame0, beBytesOfNat 278 w)
  else if nbits = 2744 then some (.frame1, beBytesOfNat 343 w)
  else none

/-- The instruction the decoder reads from an instruction whose table bits are `w`; `NOW`, which is
not in the encoding, is the value of code 0 (log 11). -/
def decodeTableWord (nbits w : Nat) : Option Instr :=
  match tableUnit nbits w with
  | none => none
  | some (format, bytes) => (decode format .zero bytes).toOption

end Sys2Proof
end

