-- ==== Sys2Proof/Machine/Operands.lean ====
section
/-! DEFINITION. The operands a consumer or the block reads out of a slice (30_encoding.md R100 to
R106, R118; 44_packet_types.md R230, R231, R233, R235, R239) and out of a frame (R72). -/

namespace Sys2Proof.Machine

/-- `length` of a `TEXT` slice (R100). -/
def textLength (s : Bytes) : Byte := byteAt s 1

/-- `seq` of a `TEXT` slice (R100). -/
def textSeq (s : Bytes) : Half := be16 s 2

/-- `text = s[4 .. 3 + length]`, empty when `length = 0` (R230). -/
def textOf (s : Bytes) : Bytes := memRead s 4 (textLength s).toNat

/-- The part of a `GPS` slice that is the packet: its first 35 bytes (R231). -/
def gpsPacket (s : Bytes) : Bytes := memRead s 0 Config.gpsLen

/-- `subid` of a `SECPL` slice (R103). -/
def secplSubid (s : Bytes) : Byte := byteAt s 1

/-- `data` of a `SECPL` slice (R103). -/
def secplData (s : Bytes) : Bytes := memRead s 2 254

/-- `code` of an `SSDV` slice (R68, R105). -/
def ssdvCode (s : Bytes) : Word := be32 s 2

/-- `image_id` of an `SSDV` slice (R105). -/
def ssdvImageId (s : Bytes) : Byte := byteAt s 6

/-- `packet_id` of an `SSDV` slice (R68, R105); no rule of the block reads it (R215). -/
def ssdvPacketId (s : Bytes) : Half := be16 s 7

/-- Image width in pixels (R239), for the consumer of `PREVIEW` and `FINAL`. -/
def imageWidth (s : Bytes) : Nat := 16 * (byteAt s 9).toNat

/-- Image height in pixels (R239). -/
def imageHeight (s : Bytes) : Nat := 16 * (byteAt s 10).toNat

/-- The payload of a frame, bytes 20..275 (R72). -/
def framePayload (f : Bytes) : Bytes := memRead f 20 256

/-- The checksum of a frame, `LE16(frame, 276)` (R118). -/
def frameChecksum (f : Bytes) : Half := le16 f 276

/-- The parity of a frame, bytes 278..342 (R72); empty in a `FRAME0`. -/
def frameParity (f : Bytes) : Bytes := memRead f 278 65

end Sys2Proof.Machine
end

