-- ==== Sys2Proof/Machine/State.lean ====
section
/-! DEFINITION. The state of the block (10_state.md R20 to R41), its output records (30_encoding.md
R112, R113), and the reasons a step can stop. -/

namespace Sys2Proof.Machine

/-- `RXF_STATE` (R27). -/
inductive RxfState where
  | hunt
  | capture
deriving DecidableEq, Repr

/-- The fields of an open image context (R33). -/
structure Context where
  /-- `CUR_ID`. -/
  curId : Byte
  /-- `CUR_CODE`: the callsign code of the packet that opened the context. -/
  curCode : Word
  /-- `PKT_COUNT`. -/
  pktCount : Nat
  /-- `CTX_TS`. -/
  ctxTs : TimeStamp
  /-- `IBUF`. -/
  ibuf : Bytes
deriving DecidableEq, Repr

/-- `RSM` with its context, which exists exactly in `Accumulating` (R32, R33). -/
inductive Rsm where
  | noImage
  | accumulating (ctx : Context)
deriving DecidableEq, Repr

/-- The transmit working registers (R26). They live inside one command; the model keeps what the
last command left in them, which no rule reads (log 6). -/
structure TxRegs where
  /-- `PBUF`, 256 bytes. -/
  pbuf : Bytes
  /-- `CRCR`. -/
  crcr : Half
  /-- `INFO`, 258 bytes. -/
  info : Bytes
  /-- `IBITS`, 2064 bits in stream order. -/
  ibits : Bits
  /-- `PIDX`. -/
  pidx : BitVec 10
  /-- `PREV`. -/
  prev : Bool
  /-- `PBITS`, 516 bits in stream order. -/
  pbits : Bits
  /-- `PARB`, 65 bytes. -/
  parb : Bytes
  /-- `FBUF`, 343 bytes. -/
  fbuf : Bytes
deriving DecidableEq, Repr

/-- An error condition with the context it records (R113, R281). -/
inductive BlockError where
  /-- `E_CMD`: the header of the refused command. -/
  | cmd (header : Word)
  /-- `E_FECLEN`: the offered length. -/
  | fecLen (len : Half)
  /-- `E_CRC`: the computed checksum, then the received one. -/
  | crc (computed received : Half)
  /-- `E_SLICELEN`: the offered length. -/
  | sliceLen (len : Half)
  /-- `E_TYPE`: byte 0 of the slice. -/
  | packetType (b : Byte)
  /-- `E_STRUCT`: byte 0 of the slice and the offending field. -/
  | packetStruct (type field : Byte)
  /-- `E_CALLSIGN`: reserved; no rule raises it (R211). -/
  | callsign
  /-- `E_OVERFLOW`: image id and callsign code of the discarded slice. -/
  | overflow (imageId : Byte) (code : Word)
deriving DecidableEq, Repr

/-- The `info` field of an `ERROR` record (R113). -/
inductive ErrInfo where
  | header (header : Word)
  | length (len : Half)
  | checksums (computed received : Half)
  | typeByte (b : Byte)
  | typeAndField (type field : Byte)
  | empty
  | sliceKey (imageId : Byte) (code : Word)
deriving DecidableEq, Repr

/-- The part of a `STATUS` record that is there when `rsm = 1` (R112). -/
structure ImageStatus where
  curId : Byte
  curCode : Word
  pktCount : Nat
deriving DecidableEq, Repr

/-- The output records (R112). -/
inductive Record where
  /-- 0x81 `PARITY`. -/
  | parity (par : Bytes)
  /-- 0x82 `CRC`: low byte, high byte. -/
  | crc (lo hi : Byte)
  /-- 0x83 `FRAME`. -/
  | frame (frame : Bytes)
  /-- 0x84 `TELEM`. -/
  | telem (type : Byte) (slice : Bytes)
  /-- 0x85 `PREVIEW`. -/
  | preview (imageId : Byte) (code : Word) (count : Nat) (buf : Bytes)
  /-- 0x86 `FINAL`. -/
  | final (imageId : Byte) (code : Word) (count : Nat) (ts : TimeStamp) (buf : Bytes)
  /-- 0x87 `STATUS`; its `rsm` bit is 1 exactly when `image` is there. -/
  | status (cfg : Byte) (ncad : Half) (esticky elast : Byte) (rxfState : RxfState)
      (image : Option ImageStatus)
  /-- 0xEE `ERROR`. -/
  | error (code : Byte) (info : ErrInfo)
deriving DecidableEq, Repr

/-- What the host presents at the command port: the bytes of commands (R108) and the value `NOW`
beside them (R35). -/
structure Offer where
  now : TimeStamp
  bytes : Bytes
deriving DecidableEq, Repr

/-- The state of the block (R20). -/
structure State where
  /-- `CFG` (R22). -/
  cfg : Byte
  /-- `NCAD` (R23). -/
  ncad : Half
  /-- `ESTICKY` (R24). -/
  esticky : Byte
  /-- `ELAST` (R25). -/
  elast : Byte
  /-- `RXF_STATE` (R27). -/
  rxfState : RxfState
  /-- `RXF_WIN` (R28). -/
  rxfWin : Word
  /-- `RXF_CNT` (R29). -/
  rxfCnt : BitVec 9
  /-- `RXF_LEN` (R30). -/
  rxfLen : BitVec 9
  /-- `RXF_BUF`, 323 bytes (R31). -/
  rxfBuf : Bytes
  /-- `RSM` and the context (R32, R33). -/
  rsm : Rsm
  /-- The transmit working registers (R26). -/
  tx : TxRegs
  /-- `OUT` (R36), oldest record first. -/
  out : List Record
  /-- The model's own field: what the host has offered and the block has not yet accepted, in the
  order of issue (R260; log 4). -/
  port : List Offer
deriving DecidableEq, Repr

/-- Reasons a step stops with a fault. There is none: "the block has no 'unexpected fault' state, no
fatal error and no halt" (60_exceptions.md R280, R292; log 14). Every error of the block is reported
by a record and the next state is reached. -/
inductive Fault
deriving DecidableEq, Repr

/-- Reasons a step is refused. -/
inductive Refusal where
  /-- Raised by an arm of `exec` for an instruction that has no meaning in the model. No arm raises
  it now. Safe. -/
  | notModelled (mnemonic : String)
deriving DecidableEq, Repr

/-- What a step or a meaning answers. -/
abbrev Result := Host.Outcome State Fault Refusal

/-- The transmit working registers after power-on. The spec leaves them unspecified (R39): zeros,
DESIGN CHOICE (log 7), unsafe. -/
def TxRegs.reset : TxRegs where
  pbuf := rep 0 256
  crcr := 0
  info := rep 0 258
  ibits := rep false 2064
  pidx := 0
  prev := false
  pbits := rep false 516
  parb := rep 0 65
  fbuf := rep 0 343

/-- The block after power-on (R39, R320). `RXF_BUF` is unspecified there: zeros, DESIGN CHOICE
(log 8), unsafe. No command has been offered (log 4, log 11). -/
def State.reset : State where
  cfg := 0x01
  ncad := 0
  esticky := 0
  elast := 0
  rxfState := .hunt
  rxfWin := 0
  rxfCnt := 0
  rxfLen := 0
  rxfBuf := rep 0 323
  rsm := .noImage
  tx := TxRegs.reset
  out := []
  port := []

end Sys2Proof.Machine
end

