-- ==== Sys2Proof/Machine/Flags.lean ====
section
/-! DEFINITION. The bits of the control and status registers (10_state.md R22 to R25): the fields
of `CFG`, and the sticky bit, code and recorded information of each error (60_exceptions.md R281,
30_encoding.md R113). The block has no condition codes (R40). -/

namespace Sys2Proof.Machine

/-- `CFG.RXFEC`, bit 0 (R22). -/
def cfgRxfec (cfg : Byte) : Bool := cfg.getLsbD 0

/-- The reserved bits 7:1 of `CFG`, as a number: `CFG div 2` (R22, R262). -/
def cfgReserved (cfg : Byte) : Nat := cfg.toNat / 2

/-- The code of an error (R281). -/
def BlockError.code : BlockError → Byte
  | .cmd _ => 0x01
  | .fecLen _ => 0x02
  | .crc _ _ => 0x03
  | .sliceLen _ => 0x04
  | .packetType _ => 0x05
  | .packetStruct _ _ => 0x06
  | .callsign => 0x07
  | .overflow _ _ => 0x08

/-- The index of an error's bit in `ESTICKY` (R24, R281). -/
def BlockError.stickyBit : BlockError → Nat
  | .cmd _ => 0
  | .fecLen _ => 1
  | .crc _ _ => 2
  | .sliceLen _ => 3
  | .packetType _ => 4
  | .packetStruct _ _ => 5
  | .callsign => 7
  | .overflow _ _ => 6

/-- The `info` an error records (R113). -/
def BlockError.info : BlockError → ErrInfo
  | .cmd header => .header header
  | .fecLen len => .length len
  | .crc computed received => .checksums computed received
  | .sliceLen len => .length len
  | .packetType b => .typeByte b
  | .packetStruct type field => .typeAndField type field
  | .callsign => .empty
  | .overflow imageId code => .sliceKey imageId code

/-- `ESTICKY` after an error: its bit set, the others kept (R24, R290). -/
def stickyAfter (esticky : Byte) (e : BlockError) : Byte :=
  esticky ||| BitVec.ofNat 8 (2 ^ e.stickyBit)

/-- The bit a `STATUS` record shows for `RXF_STATE` (R27). -/
def RxfState.bit : RxfState → Bool
  | .hunt => false
  | .capture => true

/-- The bit a `STATUS` record shows for `RSM` (R112). -/
def Rsm.bit : Rsm → Bool
  | .noImage => false
  | .accumulating _ => true

end Sys2Proof.Machine
end

