-- ==== Sys2Proof/Machine/Ops.lean ====
section
/-! DEFINITION. The shared operations on the state: emitting a record (10_state.md R36), raising an
error (60_exceptions.md R290), and the well-formedness of the byte and bit buffers that are the
block's memory (20_memory.md R60). -/

namespace Sys2Proof.Machine

/-- The kind byte of a record (R112). -/
def Record.kind : Record → Byte
  | .parity _ => 0x81
  | .crc _ _ => 0x82
  | .frame _ => 0x83
  | .telem _ _ => 0x84
  | .preview _ _ _ _ => 0x85
  | .final _ _ _ _ _ => 0x86
  | .status _ _ _ _ _ _ => 0x87
  | .error _ _ => 0xEE

/-- `emit REC(fields)` (R11, R36): the record is appended at the end of `OUT`. -/
def State.emit (r : Record) (s : State) : State := { s with out := s.out ++ [r] }

/-- The `ERROR` record of an error (R113, R290). -/
def BlockError.record (e : BlockError) : Record := .error e.code e.info

/-- `raise E_X(info)` (R290): the sticky bit is set, `ELAST` written, the `ERROR` record emitted.
Ending the unit is the caller's: what it returns is the state this leaves. Nothing is saved and
there is no return from it (R292): the next command, or the next byte, simply follows. -/
def State.raise (e : BlockError) (s : State) : State :=
  { s with esticky := stickyAfter s.esticky e, elast := e.code }.emit e.record

/-- The transmit working registers replaced. -/
def State.withTx (t : TxRegs) (s : State) : State := { s with tx := t }

/-- `RSM` replaced. -/
def State.withRsm (r : Rsm) (s : State) : State := { s with rsm := r }

/-- The port replaced. -/
def State.withPort (p : List Offer) (s : State) : State := { s with port := p }

/-- `IBUF_CAP` leaves room for `n` packets: `n ≤ IBUF_CAP` (R33, R34). -/
def withinCap (cap : Option Nat) (n : Nat) : Bool :=
  match cap with
  | none => true
  | some c => decide (n ≤ c)

/-- `PKT_COUNT = IBUF_CAP` (R212, R235); never when the buffer is unbounded. -/
def atCap (cap : Option Nat) (n : Nat) : Bool :=
  match cap with
  | none => false
  | some c => n == c

/-- The length of the image buffer: 256 bytes for each packet counted, none in `NoImage` (R33). -/
def Memory.imageWf : Rsm → Bool
  | .noImage => true
  | .accumulating ctx => ctx.ibuf.length == 256 * ctx.pktCount

/-- The canonical form of the block's memory: every buffer has the size R60 gives it
(log 17). -/
def Memory.wf (s : State) : Bool :=
  s.rxfBuf.length == 323 && s.tx.pbuf.length == 256 && s.tx.info.length == 258
    && s.tx.ibits.length == 2064 && s.tx.pbits.length == 516 && s.tx.parb.length == 65
    && s.tx.fbuf.length == 343 && Memory.imageWf s.rsm

end Sys2Proof.Machine
end

