-- ==== Sys2Proof/Machine/Reassembler.lean ====
section
/-! DEFINITION. The reassembler, unit `RSM` (43_reassembler.md R200 to R217), over any capacity
`IBUF_CAP`. -/

namespace Sys2Proof.Machine

/-- The keys are the same: image id and decoded callsign (R202). -/
def sameKey (ctx : Context) (imageId : Byte) (code : Word) : Bool :=
  imageId == ctx.curId && callDecode code == callDecode ctx.curCode

/-- The context with a slice appended (R74, R203). -/
def Context.append (slice : Bytes) (ctx : Context) : Context :=
  { ctx with ibuf := memWrite ctx.ibuf (256 * ctx.pktCount) slice, pktCount := ctx.pktCount + 1 }

/-- The bytes `IBUF[0 .. 256*PKT_COUNT - 1]` a record carries (R204, R205). -/
def Context.contents (ctx : Context) : Bytes := memRead ctx.ibuf 0 (256 * ctx.pktCount)

/-- The `PREVIEW` record of a context (R204). -/
def Context.previewRecord (ctx : Context) : Record :=
  .preview ctx.curId ctx.curCode ctx.pktCount ctx.contents

/-- The `FINAL` record of a context (R205, R207). -/
def Context.finalRecord (ctx : Context) : Record :=
  .final ctx.curId ctx.curCode ctx.pktCount ctx.ctxTs ctx.contents

/-- The cadence test (R204): `NCAD != 0 and (count mod NCAD) = 0`. -/
def previewDue (ncad : Half) (count : Nat) : Bool := ncad != 0 && count % ncad.toNat == 0

/-- `PREVIEWTEST` (R204). -/
def previewTest (ctx : Context) (s : State) : State :=
  if previewDue s.ncad ctx.pktCount then s.emit ctx.previewRecord else s

/-- `APPEND` (R203). -/
def appendSlice (slice : Bytes) (ctx : Context) (s : State) : State :=
  let grown := ctx.append slice
  previewTest grown (s.withRsm (.accumulating grown))

/-- `OVERFLOW` (R212). -/
def overflowSlice (imageId : Byte) (code : Word) (s : State) : State :=
  s.raise (.overflow imageId code)

/-- The context a boundary opens (R205, R217). -/
def openContext (now : TimeStamp) (imageId : Byte) (code : Word) (slice : Bytes) : Context where
  curId := imageId
  curCode := code
  pktCount := 1
  ctxTs := now
  ibuf := slice

/-- Finalizing the open context, if there is one (R205, R207). -/
def finalize (s : State) : State :=
  match s.rsm with
  | .noImage => s
  | .accumulating ctx => s.emit ctx.finalRecord

/-- `BOUNDARY` (R205). -/
def boundary (now : TimeStamp) (imageId : Byte) (code : Word) (slice : Bytes) (s : State) : State :=
  (finalize s).withRsm (.accumulating (openContext now imageId code slice))

/-- The transition an SSDV slice with a given key causes (R216, R235). -/
def reassemble (cap : Option Nat) (now : TimeStamp) (imageId : Byte) (code : Word) (slice : Bytes)
    (s : State) : State :=
  match s.rsm with
  | .noImage => boundary now imageId code slice s
  | .accumulating ctx =>
      if sameKey ctx imageId code then
        if atCap cap ctx.pktCount then overflowSlice imageId code s
        else appendSlice slice ctx s
      else boundary now imageId code slice s

end Sys2Proof.Machine
end

