-- ==== Sys2Proof/Machine/Packets.lean ====
section
/-! DEFINITION. The packet handlers (44_packet_types.md R230 to R236), the classifier
(42_rx_recognizer.md R184), and the meanings of the seven packet types. A handler works on the whole
256-byte slice; a meaning hands its handler the slice its fields stand for. -/

namespace Sys2Proof.Machine

/-- The handler of `TEXT_MESSAGE` (R230). -/
def handleText (slice : Bytes) (s : State) : State :=
  if 252 < (textLength slice).toNat then s.raise (.packetStruct 0x00 (textLength slice))
  else s.emit (.telem 0x00 slice)

/-- The handler of `GPS_TELEMETRY` (R231). -/
def handleGps (slice : Bytes) (s : State) : State := s.emit (.telem 0x01 slice)

/-- The handler of `ORIENTATION_TELEMETRY` (R232): passed through unopened. -/
def handleOrientation (slice : Bytes) (s : State) : State := s.emit (.telem 0x02 slice)

/-- The handler of `SEC_PAYLOAD_TELEMETRY` (R233). -/
def handleSecPayload (slice : Bytes) (s : State) : State := s.emit (.telem 0x03 slice)

/-- The handler of `IMAGE_TELEMETRY` (R234): passed through unopened. -/
def handleImageTelemetry (slice : Bytes) (s : State) : State := s.emit (.telem 0x54 slice)

/-- The handler of `SSDV` (R235): it reads bytes 2..6 of the slice and stores the slice whole. -/
def handleSsdv (cap : Option Nat) (now : TimeStamp) (slice : Bytes) (s : State) : State :=
  reassemble cap now (ssdvImageId slice) (ssdvCode slice) slice s

/-- The handler of `IDLE` (R236): nothing. -/
def handleIdle (s : State) : State := s

/-- `CLASSIFY` (R184): the handler byte 0 selects, or `E_TYPE` (R185). -/
def classify (cap : Option Nat) (now : TimeStamp) (slice : Bytes) (s : State) : State :=
  match packetTypeOf (byteAt slice 0) with
  | some .textMessage => handleText slice s
  | some .gpsTelemetry => handleGps slice s
  | some .orientationTelemetry => handleOrientation slice s
  | some .secPayloadTelemetry => handleSecPayload slice s
  | some .imageTelemetry => handleImageTelemetry slice s
  | some .ssdv => handleSsdv cap now slice s
  | some .idle => handleIdle s
  | none => s.raise (.packetType (byteAt slice 0))

/-- `TEXT_MESSAGE` (R230). -/
def execTextMessage (length : Byte) (seq : Half) (rest : Bytes) (s : State) : Result :=
  .next (handleText (textSlice length seq rest) s)

/-- `GPS_TELEMETRY` (R231). -/
def execGpsTelemetry (fields : GpsFields) (rest : Bytes) (s : State) : Result :=
  .next (handleGps (gpsSlice fields rest) s)

/-- `ORIENTATION_TELEMETRY` (R232). -/
def execOrientationTelemetry (week : Half) (towMs : Word) (leapS : Byte) (rest : Bytes)
    (s : State) : Result :=
  .next (handleOrientation (orientSlice week towMs leapS rest) s)

/-- `SEC_PAYLOAD_TELEMETRY` (R233). -/
def execSecPayloadTelemetry (subid : Byte) (data : Bytes) (s : State) : Result :=
  .next (handleSecPayload (secplSlice subid data) s)

/-- `IMAGE_TELEMETRY` (R234). -/
def execImageTelemetry (rest : Bytes) (s : State) : Result :=
  .next (handleImageTelemetry (imgtlmSlice rest) s)

/-- `SSDV` (R235). -/
def execSsdv (now : TimeStamp) (header : SsdvHeader) (rest : Bytes) (s : State) : Result :=
  .next (handleSsdv Config.ibufCap now (ssdvSlice header rest) s)

/-- `IDLE` (R236): the rest of the slice is ignored. -/
def execIdle (s : State) : Result := .next (handleIdle s)

end Sys2Proof.Machine
end

