-- ==== Sys2Proof/Machine/Receive.lean ====
section
/-! DEFINITION. The receive recognizer, unit `RXF` (42_rx_recognizer.md R170 to R187), and the
meanings of the receive commands and of the two frame formats. -/

namespace Sys2Proof.Machine

/-- The window after a byte: `((RXF_WIN * 256) + b) mod 2^32` (R118, R172). -/
def windowAfter (win : Word) (b : Byte) : Word := win * 256 + b.setWidth 32

/-- The bytes to capture for a frame: 323 with parity, 258 without (R30, R173). -/
def captureLen (cfg : Byte) : BitVec 9 :=
  if cfgRxfec cfg then BitVec.ofNat 9 Config.captureLen1 else BitVec.ofNat 9 Config.captureLen0

/-- `UWMATCH` (R173). -/
def uwMatch (s : State) : State :=
  { s with rxfState := .capture, rxfCnt := 0, rxfLen := captureLen s.cfg }

/-- `BYTESTEP` in `HUNT` (R172). -/
def huntByte (b : Byte) (s : State) : State :=
  let t := { s with rxfWin := windowAfter s.rxfWin b }
  if t.rxfWin = Config.uniqueWordValue then uwMatch t else t

/-- The return to `HUNT` (R178); `RXF_LEN` and `RXF_BUF` keep their values. -/
def returnToHunt (s : State) : State :=
  { s with rxfState := .hunt, rxfWin := 0, rxfCnt := 0 }

/-- The payload captured in `RXF_BUF` (R175). -/
def capturedPayload (s : State) : Bytes := memRead s.rxfBuf 0 256

/-- The received checksum, low byte first (R175). -/
def capturedChecksum (s : State) : Half := le16 s.rxfBuf 256

/-- `FRAMEEND` (R175 to R177): back to `HUNT` first; then the payload is delivered to the classifier
if its checksum is right, and `E_CRC` raised if not. -/
def frameEnd (cap : Option Nat) (now : TimeStamp) (s : State) : State :=
  let payload := capturedPayload s
  let received := capturedChecksum s
  let computed := crc16 payload
  if received = computed then classify cap now payload (returnToHunt s)
  else (returnToHunt s).raise (.crc computed received)

/-- A byte stored in `CAPTURE` (R174). -/
def storeByte (b : Byte) (s : State) : State :=
  { s with rxfBuf := memWrite s.rxfBuf s.rxfCnt.toNat [b], rxfCnt := s.rxfCnt + 1 }

/-- `BYTESTEP` in `CAPTURE` (R174). -/
def captureByte (cap : Option Nat) (now : TimeStamp) (b : Byte) (s : State) : State :=
  let t := storeByte b s
  if t.rxfCnt = t.rxfLen then frameEnd cap now t else t

/-- `BYTESTEP` (R172, R174). -/
def byteStep (cap : Option Nat) (now : TimeStamp) (s : State) (b : Byte) : State :=
  match s.rxfState with
  | .hunt => huntByte b s
  | .capture => captureByte cap now b s

/-- The bytes of a receive stream, in order (R75, R171). -/
def rxRun (cap : Option Nat) (now : TimeStamp) (data : Bytes) (s : State) : State :=
  data.foldl (byteStep cap now) s

/-- `RX_SLICE` (R182): `SLICELEN` (R183), then `CLASSIFY` (R184). -/
def rxSliceWith (cap : Option Nat) (now : TimeStamp) (data : Bytes) (s : State) : State :=
  if data.length ≠ Config.payloadLen then s.raise (.sliceLen (BitVec.ofNat 16 data.length))
  else classify cap now data s

/-- `RX_BYTES` (R171). -/
def execRxBytes (now : TimeStamp) (data : Bytes) (s : State) : Result :=
  .next (rxRun Config.ibufCap now data s)

/-- `RX_SLICE` (R182). -/
def execRxSlice (now : TimeStamp) (data : Bytes) (s : State) : Result :=
  .next (rxSliceWith Config.ibufCap now data s)

/-- `FRAME0` (R91, R170): its 278 bytes pass through the recognizer (log 9). -/
def execFrame0 (now : TimeStamp) (preamble payload : Bytes) (checksum : Half) (s : State) : Result :=
  .next (rxRun Config.ibufCap now (frameBytes preamble payload checksum []) s)

/-- `FRAME1` (R92, R170): its 343 bytes pass through the recognizer (log 9). -/
def execFrame1 (now : TimeStamp) (preamble payload : Bytes) (checksum : Half) (parity : Bytes)
    (s : State) : Result :=
  .next (rxRun Config.ibufCap now (frameBytes preamble payload checksum parity) s)

end Sys2Proof.Machine
end

