-- ==== Sys2Proof/Machine/System.lean ====
section
/-! DEFINITION. The system commands and the illegal command (45_system_ops.md R260 to R265). -/

namespace Sys2Proof.Machine

/-- The registers `RESET` writes (R261, R39). `OUT` is not touched (R321), nor is what the spec
leaves unspecified, `RXF_BUF` and the transmit working registers (log 10). -/
def resetRegisters (s : State) : State :=
  { s with
    cfg := 0x01
    ncad := 0
    esticky := 0
    elast := 0
    rxfState := .hunt
    rxfWin := 0
    rxfCnt := 0
    rxfLen := 0
    rsm := .noImage }

/-- The header of a `SET_CONFIG` command, the only one its row matches (R109). -/
def setConfigHeader : Word := 0x21000003

/-- `SET_CONFIG` (R262): both registers together, or neither when a reserved bit is offered. -/
def configure (cfg : Byte) (ncad : Half) (s : State) : State :=
  if cfgReserved cfg ≠ 0 then s.raise (.cmd setConfigHeader)
  else { s with cfg := cfg, ncad := ncad }

/-- The image part of a `STATUS` record (R112, R263). -/
def Rsm.status : Rsm → Option ImageStatus
  | .noImage => none
  | .accumulating ctx => some ⟨ctx.curId, ctx.curCode, ctx.pktCount⟩

/-- The `STATUS` record of a state (R263). -/
def statusRecord (s : State) : Record :=
  .status s.cfg s.ncad s.esticky s.elast s.rxfState s.rsm.status

/-- `RESET` (R261). -/
def execReset (s : State) : Result := .next (resetRegisters s)

/-- `SET_CONFIG` (R262). -/
def execSetConfig (cfg : Byte) (ncad : Half) (s : State) : Result := .next (configure cfg ncad s)

/-- `GET_STATUS` (R263). -/
def execGetStatus (s : State) : Result := .next (s.emit (statusRecord s))

/-- The illegal command (R264). -/
def illegalCommand (header : Word) (s : State) : State := s.raise (.cmd header)

end Sys2Proof.Machine
end

