-- ==== Sys2Proof/Machine/Encoder.lean ====
section
/-! DEFINITION. The LDPC encoder, unit `ENC` (40_fec_encoder.md R130 to R141), over any connection
table. Each step works on the transmit working registers. -/

namespace Sys2Proof.Machine

/-- `HROWS(p, i)`: the entry as the source writes it, 1-based, in 1..2064 (R21, R114). -/
def tableEntry (h : HTable) (p i : Nat) : Nat := (h p i).val + 1

/-- `INFO <- data` (R141). -/
def TxRegs.loadInfo (data : Bytes) (t : TxRegs) : TxRegs := { t with info := data }

/-- `BITUNPACK` (R132): most significant bit of each byte first. -/
def TxRegs.bitUnpack (t : TxRegs) : TxRegs :=
  { t with ibits := (List.range Config.infoBits).map (streamBit t.info) }

/-- `ROWSUM(p)` (R133): the XOR of the 12 information bits of row `p`. -/
def rowSum (h : HTable) (ibits : Bits) (p : Nat) : Bool :=
  (List.range Config.rowWeight).foldl
    (fun s i => s ^^ ibits.getD (tableEntry h p i - 1) false) false

/-- `ACCUM(p)` (R134), with `PIDX <- p` (R135). -/
def TxRegs.accum (h : HTable) (t : TxRegs) (p : Nat) : TxRegs :=
  let bit := rowSum h t.ibits p ^^ t.prev
  { t with pidx := BitVec.ofNat 10 p, prev := bit, pbits := memWrite t.pbits p [bit] }

/-- `PREV <- 0`, then `ACCUM(p)` for `p = 0, 1, …` in increasing order, `n` rows (R135). -/
def TxRegs.accumRows (h : HTable) (n : Nat) (t : TxRegs) : TxRegs :=
  (List.range n).foldl (TxRegs.accum h) { t with prev := false }

/-- Bit `q` of the padded parity: `PBITS[q]` up to 515, then zeros (R118, R137). -/
def paddedParityBit (pbits : Bits) (q : Nat) : Bool :=
  if q ≤ 515 then pbits.getD q false else false

/-- `BITPACK` (R137): parity byte `k` holds bits `8k .. 8k+7`, most significant first. -/
def TxRegs.bitPack (t : TxRegs) : TxRegs :=
  { t with parb := (List.range Config.parityBytes).map fun k =>
      packByte fun j => paddedParityBit t.pbits (8 * k + j) }

/-- The whole encode of an information block: unpack, accumulate, pack (R135, R141). -/
def TxRegs.fecRun (h : HTable) (data : Bytes) (t : TxRegs) : TxRegs :=
  ((t.loadInfo data).bitUnpack.accumRows h Config.parityBits).bitPack

/-- `FEC_ENCODE` (R141): `LENCHECK` (R131), then the encode and the `PARITY` record. -/
def fecEncodeWith (h : HTable) (data : Bytes) (s : State) : State :=
  if data.length ≠ Config.infoBytes then s.raise (.fecLen (BitVec.ofNat 16 data.length))
  else
    let t := s.tx.fecRun h data
    (s.withTx t).emit (.parity t.parb)

end Sys2Proof.Machine
end

