-- ==== Sys2Proof/Machine/Framer.lean ====
section
/-! DEFINITION. The transmit framer, unit `FRM` (41_crc_framer.md R152 to R159), and the checksum
command (R151). -/

namespace Sys2Proof.Machine

/-- The payload after `PADTRUNC` (R152): the first 256 bytes, filled up with 0x55. -/
def padTruncBytes (data : Bytes) : Bytes :=
  (List.range Config.payloadLen).map fun k => data.getD k Config.padByte

/-- `PADTRUNC` (R152). -/
def TxRegs.padTrunc (data : Bytes) (t : TxRegs) : TxRegs := { t with pbuf := padTruncBytes data }

/-- `CHECKSUM` (R153): the checksum of `PBUF` in `CRCR`. -/
def TxRegs.checksum (t : TxRegs) : TxRegs := { t with crcr := crc16 t.pbuf }

/-- The preamble the framer writes (R91, R93). -/
def framePreamble : Bytes := rep Config.preambleByte Config.preambleLen

/-- `ASSEMBLE` without parity (R154). -/
def TxRegs.assemble0 (t : TxRegs) : TxRegs :=
  { t with fbuf := memWrite t.fbuf 0 (frameBytes framePreamble t.pbuf t.crcr []) }

/-- `ASSEMBLE` with parity (R155): the information block is `PBUF` and the checksum bytes. -/
def TxRegs.assemble1 (h : HTable) (t : TxRegs) : TxRegs :=
  let u := t.fecRun h (t.pbuf ++ le16Bytes t.crcr)
  { u with fbuf := memWrite u.fbuf 0 (frameBytes framePreamble u.pbuf u.crcr u.parb) }

/-- `FRAME` (R156): pad or truncate, checksum, assemble, emit. -/
def frameWith (h : HTable) (fec : Bool) (data : Bytes) (s : State) : State :=
  let t := (s.tx.padTrunc data).checksum
  if fec then
    let u := t.assemble1 h
    (s.withTx u).emit (.frame (memRead u.fbuf 0 Config.frameLen1))
  else
    let u := t.assemble0
    (s.withTx u).emit (.frame (memRead u.fbuf 0 Config.frameLen0))

/-- `CRC16` command (R151): the record carries the low byte first. -/
def crcCommand (data : Bytes) (s : State) : State :=
  let c := crc16 data
  (s.withTx { s.tx with crcr := c }).emit (.crc (lo8 c) (hi8 c))

end Sys2Proof.Machine
end

