-- ==== Sys2Proof/Machine/Transmit.lean ====
section
/-! DEFINITION. The meanings of the transmit commands (40_fec_encoder.md R141, 41_crc_framer.md
R151, R156), at the block's own connection table. -/

namespace Sys2Proof.Machine

/-- `FEC_ENCODE` (R141). -/
def execFecEncode (data : Bytes) (s : State) : Result :=
  .next (fecEncodeWith Config.hrows data s)

/-- `CRC16` (R151). -/
def execCrc16 (data : Bytes) (s : State) : Result := .next (crcCommand data s)

/-- `FRAME` (R156). -/
def execFrame (fec : Bool) (data : Bytes) (s : State) : Result :=
  .next (frameWith Config.hrows fec data s)

end Sys2Proof.Machine
end

