-- ==== Sys2Proof/Machine/Dispatch.lean ====
section
/-! DEFINITION. The meaning of each instruction, one arm per constructor. -/

namespace Sys2Proof.Machine

/-- What an instruction does. -/
def exec (i : Instr) (s : State) : Host.Outcome State Fault Refusal :=
  match i with
  | .fecEncode data => Sys2Proof.Machine.execFecEncode data s
  | .crc16 data => Sys2Proof.Machine.execCrc16 data s
  | .frame fec data => Sys2Proof.Machine.execFrame fec data s
  | .rxBytes now data => Sys2Proof.Machine.execRxBytes now data s
  | .rxSlice now data => Sys2Proof.Machine.execRxSlice now data s
  | .reset => Sys2Proof.Machine.execReset s
  | .setConfig cfg ncad => Sys2Proof.Machine.execSetConfig cfg ncad s
  | .getStatus => Sys2Proof.Machine.execGetStatus s
  | .textMessage length seq rest => Sys2Proof.Machine.execTextMessage length seq rest s
  | .gpsTelemetry fields rest => Sys2Proof.Machine.execGpsTelemetry fields rest s
  | .orientationTelemetry week towMs leapS rest => Sys2Proof.Machine.execOrientationTelemetry week towMs leapS rest s
  | .secPayloadTelemetry subid data => Sys2Proof.Machine.execSecPayloadTelemetry subid data s
  | .imageTelemetry rest => Sys2Proof.Machine.execImageTelemetry rest s
  | .ssdv now header rest => Sys2Proof.Machine.execSsdv now header rest s
  | .idle _ => Sys2Proof.Machine.execIdle s
  | .frame0 now preamble payload checksum => Sys2Proof.Machine.execFrame0 now preamble payload checksum s
  | .frame1 now preamble payload checksum parity => Sys2Proof.Machine.execFrame1 now preamble payload checksum parity s

end Sys2Proof.Machine
end

