-- ==== Sys2Proof/Machine/Fetch.lean ====
section
/-! DEFINITION. Taking the next command from the port (45_system_ops.md R260), and placing an
instruction there. The block fetches no instructions (10_state.md R37); the command port is where
its work comes from. -/

namespace Sys2Proof.Machine

/-- The port after a command is taken from the first offer: what is left of that offer comes first
(R264: "so that the next command starts at the right place"). -/
def portAfter (now : TimeStamp) (after : Bytes) (rest : List Offer) : List Offer :=
  if after = [] then rest else ⟨now, after⟩ :: rest

/-- A command taken from the port: `NOW`, the header, the data bytes, and the state without it. -/
structure Fetched where
  now : TimeStamp
  header : Word
  data : Bytes
  state : State
deriving DecidableEq, Repr

/-- The first command of the port, taken whole; none while no command is there whole (R260; log 4,
log 5). -/
def fetch (s : State) : Option Fetched :=
  match s.port with
  | [] => none
  | offer :: rest =>
      match takeCommand offer.bytes with
      | none => none
      | some c =>
          some ⟨offer.now, c.header, c.data, s.withPort (portAfter offer.now c.after rest)⟩

/-- An offer placed before all others. -/
def offerFirst (now : TimeStamp) (bytes : Bytes) (s : State) : State :=
  s.withPort (⟨now, bytes⟩ :: s.port)

/-- The recognizer ready for a frame of a given format: in `HUNT`, the window clear, `RXFEC` set to
the format (R115, R178). -/
def awaitFrame (fec : Bool) (s : State) : State :=
  { s with cfg := if fec then 0x01 else 0x00, rxfState := .hunt, rxfWin := 0, rxfCnt := 0 }

/-- A unit placed where the next step takes it: a command is offered at the port; a slice comes in
an `RX_SLICE` command (log 11); a frame comes in an `RX_BYTES` command to a recognizer that waits
for it (log 9). -/
def placeUnit (format : Format) (bytes : Bytes) (s : State) : State :=
  match format with
  | .cmd => offerFirst .zero bytes s
  | .slice => offerFirst .zero (cmdBytes 0x11 0x00 bytes) s
  | .frame0 => offerFirst .zero (cmdBytes 0x10 0x00 bytes) (awaitFrame false s)
  | .frame1 => offerFirst .zero (cmdBytes 0x10 0x00 bytes) (awaitFrame true s)

/-- The instruction whose table bits are `w`, placed where the next step takes it. -/
def placeWord (nbits w : Nat) (s : State) : State :=
  match tableUnit nbits w with
  | none => s
  | some (format, bytes) => placeUnit format bytes s

end Sys2Proof.Machine
end

