-- ==== Sys2Proof/Machine/Step.lean ====
section
/-! DEFINITION. One step: one host command carried out whole (00_scope.md R7, 45_system_ops.md
R260). -/

namespace Sys2Proof.Machine

/-- One step. The first command of the port is taken and carried out; a header that matches no row
is the illegal command (R264); while no command is there whole, nothing changes (R294; log 5). -/
def step (s : State) : Host.Outcome State Fault Refusal :=
  match fetch s with
  | none => .next s
  | some f =>
      match decodeCommand f.now f.header f.data with
      | .ok i => exec i f.state
      | .error _ => .next (illegalCommand f.header f.state)

/-- The state with the instruction whose table bits are `w` placed where the next step takes it. -/
def State.withFetchWord (s : State) (nbits w : Nat) : State := placeWord nbits w s

end Sys2Proof.Machine
end

