-- ==== Sys2Proof/Machine/Notation.lean ====
section
/-! DEFINITION. The notation for commands and the pseudo-commands (30_encoding.md R116, R117,
41_crc_framer.md R159), as data: what a line of the notation stands for. -/

namespace Sys2Proof.Machine

/-- An item of a byte sequence in the notation (R116). -/
inductive Item where
  /-- A hex pair. -/
  | byte (b : Byte)
  /-- `b*n`. -/
  | copies (b : Byte) (n : Nat)
  /-- ASCII text in quotes. -/
  | ascii (text : List Char)
  /-- `[a..b]`, decimal. -/
  | range (a b : Nat)
deriving DecidableEq, Repr

/-- The bytes of an item (R116). -/
def Item.bytes : Item → Bytes
  | .byte b => [b]
  | .copies b n => rep b n
  | .ascii text => text.map fun c => BitVec.ofNat 8 c.toNat
  | .range a b => (List.range (b + 1 - a)).map fun k => BitVec.ofNat 8 (a + k)

/-- The bytes of a sequence of items. -/
def itemBytes (items : List Item) : Bytes := items.flatMap Item.bytes

/-- A line of the notation (R116), and the pseudo-commands that stand for one command (R117). -/
inductive Line where
  | fecEncode (items : List Item)
  | crc16 (items : List Item)
  | frame (fec : Bool) (items : List Item)
  | rxBytes (now : Option TimeStamp) (items : List Item)
  | rxSlice (now : Option TimeStamp) (items : List Item)
  | reset
  | setConfig (rxfec : Bool) (ncad : Half)
  | getStatus
  | idleFrame (fec : Bool)
  | rxByte (now : Option TimeStamp) (b : Byte)
deriving DecidableEq, Repr

/-- `NOW` of line `n`: the value given, or an arbitrary one when it is left out (R116; log 16). -/
def lineNow (n : Nat) (now : Option TimeStamp) : TimeStamp := now.getD (Config.arbitraryNow n)

/-- The value of `CFG` with a given `RXFEC` and the reserved bits 0 (R22). -/
def cfgOf (rxfec : Bool) : Byte := if rxfec then 0x01 else 0x00

/-- The instruction that line `n` of a listing stands for (R116, R117). -/
def Line.instr (n : Nat) : Line → Instr
  | .fecEncode items => .fecEncode (itemBytes items)
  | .crc16 items => .crc16 (itemBytes items)
  | .frame fec items => .frame fec (itemBytes items)
  | .rxBytes now items => .rxBytes (lineNow n now) (itemBytes items)
  | .rxSlice now items => .rxSlice (lineNow n now) (itemBytes items)
  | .reset => .reset
  | .setConfig rxfec ncad => .setConfig (cfgOf rxfec) ncad
  | .getStatus => .getStatus
  | .idleFrame fec => .frame fec (rep Config.idleByte Config.payloadLen)
  | .rxByte now b => .rxBytes (lineNow n now) [b]

/-- `LOOPBACK fec=<f>, <bytes>` (R117): set `RXFEC`, frame the bytes, feed the frame that the
`FRAME` record carried to the recognizer. -/
def loopback (h : HTable) (cap : Option Nat) (now : TimeStamp) (fec : Bool) (data : Bytes)
    (s : State) : State :=
  let framed := frameWith h fec data (configure (cfgOf fec) s.ncad s)
  match framed.out.getLast? with
  | some (.frame f) => rxRun cap now f framed
  | _ => framed

end Sys2Proof.Machine
end

