-- ==== Sys2Proof/Safety.lean ====
section
/-! DEFINITION. What counts as a safe run: the invariants of the registers (10_state.md R22 to R34)
and the error-free predicate (60_exceptions.md R303). -/

namespace Sys2Proof.Machine

/-- The reserved bits 7:1 of `CFG` read as 0 (R22). -/
abbrev CfgLegal (s : State) : Prop := cfgReserved s.cfg = 0

/-- Sticky bit 7 reads 0 (R24), `ELAST` is 0 or the code of an error that can be raised and whose
sticky bit is set (R25, R281, R290), and no sticky bit is set while `ELAST` is 0. -/
abbrev ErrorsLegal (s : State) : Prop :=
  s.esticky.getLsbD 7 = false ∧
    ((s.elast = 0 ∧ s.esticky = 0) ∨ (s.elast = 1 ∧ s.esticky.getLsbD 0) ∨
     (s.elast = 2 ∧ s.esticky.getLsbD 1) ∨ (s.elast = 3 ∧ s.esticky.getLsbD 2) ∨
     (s.elast = 4 ∧ s.esticky.getLsbD 3) ∨ (s.elast = 5 ∧ s.esticky.getLsbD 4) ∨
     (s.elast = 6 ∧ s.esticky.getLsbD 5) ∨ (s.elast = 8 ∧ s.esticky.getLsbD 6))

/-- In `HUNT` the count is 0 and the window has not matched; in `CAPTURE` the window is the one that
matched, the latched length is one of the two, and the count is below it (R28 to R30, R178, I10). -/
abbrev RecognizerLegal (s : State) : Prop :=
  (s.rxfState = .hunt → s.rxfCnt = 0 ∧ s.rxfWin ≠ Config.uniqueWordValue) ∧
  (s.rxfState = .capture →
    s.rxfWin = Config.uniqueWordValue ∧ (s.rxfLen = 258 ∨ s.rxfLen = 323) ∧ s.rxfCnt < s.rxfLen) ∧
  (s.rxfLen = 0 ∨ s.rxfLen = 258 ∨ s.rxfLen = 323)

/-- Block `k` of a buffer is an SSDV slice with a given image id and callsign (R34). -/
abbrev BlockHasKey (ctx : Context) (k : Nat) : Prop :=
  byteAt ctx.ibuf (256 * k) = 0x55 ∧ byteAt ctx.ibuf (256 * k + 6) = ctx.curId ∧
    callDecode (be32 ctx.ibuf (256 * k + 2)) = callDecode ctx.curCode

/-- The invariant of an open context (R34), for a capacity `cap`. -/
abbrev ContextLegal (cap : Option Nat) (ctx : Context) : Prop :=
  1 ≤ ctx.pktCount ∧ ctx.ibuf.length = 256 * ctx.pktCount ∧ withinCap cap ctx.pktCount = true ∧
    ∀ k, k < ctx.pktCount → BlockHasKey ctx k

/-- The invariant of the reassembler: that of its context, when there is one (R32 to R34). -/
def ReassemblerLegal (cap : Option Nat) (s : State) : Prop :=
  ∀ ctx, s.rsm = .accumulating ctx → ContextLegal cap ctx

/-- The invariant of the block, for a capacity `cap` of the image buffer. -/
structure Legal (cap : Option Nat) (s : State) : Prop where
  cfg : CfgLegal s
  errors : ErrorsLegal s
  recognizer : RecognizerLegal s
  reassembler : ReassemblerLegal cap s
  memory : Memory.wf s = true

/-- No error has been raised since the last reset (R303). -/
abbrev ErrorFree (s : State) : Prop := s.esticky = 0

/-- A record is an `ERROR` record. -/
def Record.isError : Record → Bool
  | .error _ _ => true
  | .parity _ | .crc _ _ | .frame _ | .telem _ _ | .preview _ _ _ _ => false
  | .final _ _ _ _ _ | .status _ _ _ _ _ _ => false

/-- The records a step appended: what `OUT` holds after it beyond what it held before (R36). -/
def newRecords (before after : State) : List Record := after.out.drop before.out.length

/-- Two states agree on everything the transmit path does not write: all but `OUT` and the working
registers (R8, R26). -/
def SameButTransmit (s t : State) : Prop :=
  t = { s with tx := t.tx, out := t.out }

end Sys2Proof.Machine
end

