-- ==== Sys2Proof/Certificates/Slice0/Obligations.lean ====
section
/-! DEFINITION. The statements for the provers, each about the machine, none about a program. The
functions under `Sys2Proof.Spec` say what the spec says in a form of their own (closed forms, natural
numbers, fields), so that a statement does not repeat the definition it is about. -/

namespace Sys2Proof.Spec

open Sys2Proof.Machine

/-! ### What the spec says, in its own terms -/

/-- The rows of 30_encoding.md R109 by their fields: the headers that are commands. -/
def LegalHeader (op flags : Byte) (len : Half) : Prop :=
  ((op = 0x01 ∨ op = 0x02 ∨ op = 0x10 ∨ op = 0x11) ∧ flags = 0) ∨
  (op = 0x03 ∧ (flags = 0 ∨ flags = 1)) ∨
  ((op = 0x20 ∨ op = 0x22) ∧ flags = 0 ∧ len = 0) ∨
  (op = 0x21 ∧ flags = 0 ∧ len = 3)

/-- The bytes of a command with given fields (30_encoding.md R108). -/
def commandBytes (op flags : Byte) (len : Half) (data : Bytes) : Bytes :=
  [op, flags, hi8 len, lo8 len] ++ data

/-- The type codes that select a packet type (30_encoding.md R98). -/
def KnownType (b : Byte) : Prop :=
  b = 0x00 ∨ b = 0x01 ∨ b = 0x02 ∨ b = 0x03 ∨ b = 0x54 ∨ b = 0x55 ∨ b = 0x56

/-- Information bit `j` of a block: bit `7 - (j mod 8)` of byte `j div 8` (20_memory.md R66). -/
def infoBit (info : Bytes) (j : Nat) : Bool := (info.getD (j / 8) 0).getLsbD (7 - j % 8)

/-- The XOR of the 12 information bits row `p` selects (40_fec_encoder.md R133). -/
def rowXor (h : HTable) (info : Bytes) (p : Nat) : Bool :=
  ((List.range 12).map fun i => infoBit info (tableEntry h p i - 1)).foldr xor false

/-- `ROWSUM(0) XOR ROWSUM(1) XOR … XOR ROWSUM(p)` (40_fec_encoder.md R136). -/
def parityBit (h : HTable) (info : Bytes) (p : Nat) : Bool :=
  ((List.range (p + 1)).map (rowXor h info)).foldr xor false

/-- 65 bytes are the parity of an information block: parity bit `p` is bit `7 - (p mod 8)` of byte
`p div 8`, and the four padding bits are 0 (20_memory.md R65, R70). -/
def IsParity (h : HTable) (info par : Bytes) : Prop :=
  par.length = 65 ∧
  (∀ p, p < 516 → infoBit par p = parityBit h info p) ∧
  (∀ q, 516 ≤ q → q < 520 → infoBit par q = false)

/-- Bytewise XOR of two byte sequences. -/
def xorBytes (a b : Bytes) : Bytes := List.zipWith (· ^^^ ·) a b

/-- One shift of the checksum register, on natural numbers (41_crc_framer.md R150). -/
def crcShiftNat (c : Nat) : Nat :=
  if c ≥ 0x8000 then ((c * 2) % 65536) ^^^ 0x1021 else (c * 2) % 65536

/-- The checksum procedure on natural numbers (41_crc_framer.md R150). -/
def crcNat (B : Bytes) : Nat :=
  B.foldl (fun c b => crcShiftNat^[8] (c ^^^ (b.toNat * 256))) 0xFFFF

/-- A payload after padding and truncation: 256 bytes, byte `k` that of the data or 0x55
(41_crc_framer.md R152). -/
def IsPadded (data padded : Bytes) : Prop :=
  padded.length = 256 ∧
  ∀ k, k < 256 → padded[k]? = if k < data.length then data[k]? else some 0x55

/-- The fixed head of a frame: 16 preamble bytes and the unique word (20_memory.md R72). -/
def frameHead : Bytes := rep 0x55 16 ++ [0xAB, 0xCD, 0xEF, 0x01]

/-- A state with an error of a given code, sticky bit and info raised in it (60_exceptions.md
R290). -/
def withError (code : Byte) (bit : Nat) (info : ErrInfo) (s : State) : State :=
  { s with
    esticky := s.esticky ||| BitVec.ofNat 8 (2 ^ bit)
    elast := code
    out := s.out ++ [.error code info] }

/-- The recognizer back in `HUNT` after a frame (42_rx_recognizer.md R178). -/
def afterFrame (s : State) : State := { s with rxfState := .hunt, rxfWin := 0, rxfCnt := 0 }

/-- What the block does with a payload that ended with a given checksum field, after the return to
`HUNT` (42_rx_recognizer.md R175 to R177). -/
def delivered (now : TimeStamp) (payload : Bytes) (received : Half) (s : State) : State :=
  if received = crc16 payload then classify Config.ibufCap now payload (afterFrame s)
  else withError 0x03 2 (.checksums (crc16 payload) received) (afterFrame s)

/-- The key of a slice is the key of a context (43_reassembler.md R202). -/
def SameImage (ctx : Context) (h : SsdvHeader) : Prop :=
  h.imageId = ctx.curId ∧ callDecode h.code = callDecode ctx.curCode

/-- What the reassembler does with a slice from `s`: it opens or continues the context `ctx`, whose
buffer is the bytes `old` and then the slice, and emits `recs`, which may hold the whole buffer
(43_reassembler.md R203 to R205). -/
def stored (s : State) (ctx : Context) (old : Bytes) (recs : Bytes → List Record) (slice : Bytes) :
    State :=
  { s with
    rsm := .accumulating { ctx with ibuf := old ++ slice }
    out := s.out ++ recs (old ++ slice) }

/-- Records that hold a whole buffer at most as the buffer of one `PREVIEW`, all else being fixed. -/
def HoldBufferOnly (recs : Bytes → List Record) : Prop :=
  (∃ fixed, recs = fun _ => fixed) ∨ (∃ id code n, recs = fun buf => [.preview id code n buf])

/-- The first command at the port decodes to an instruction. -/
def TakesCommand (s : State) (i : Instr) : Prop :=
  ∃ f, fetch s = some f ∧ decodeCommand f.now f.header f.data = .ok i

/-- The registers the recognizer owns are the same (10_state.md R27 to R31). -/
def SameRecognizer (s t : State) : Prop :=
  t.rxfState = s.rxfState ∧ t.rxfWin = s.rxfWin ∧ t.rxfCnt = s.rxfCnt ∧ t.rxfLen = s.rxfLen ∧
    t.rxfBuf = s.rxfBuf

/-- The registers hold the values the spec gives for reset (10_state.md R39). -/
def HasResetValues (s : State) : Prop :=
  s.cfg = 0x01 ∧ s.ncad = 0 ∧ s.esticky = 0 ∧ s.elast = 0 ∧ s.rxfState = .hunt ∧ s.rxfWin = 0 ∧
    s.rxfCnt = 0 ∧ s.rxfLen = 0 ∧ s.rsm = .noImage

/-- A command that only transmits: `CRC16`, `FRAME`, or a `FEC_ENCODE` of the right length. -/
def Transmits : Instr → Prop
  | .fecEncode data => data.length = 258
  | .crc16 _ => True
  | .frame _ _ => True
  | _ => False

end Sys2Proof.Spec

open Sys2Proof Sys2Proof.Machine Sys2Proof.Spec

/-! ### Encoding and decoding -/

/-- Every well-formed command decodes from its encoding, and the bytes after it are left for the next
command (R108, R109, R111). `NOW` comes beside the encoding. -/
def Obligations.CommandsDecodeTheirEncoding : Prop :=
  ∀ (i : Instr) (now : TimeStamp) (tail : Bytes),
    i.wellFormed = true → i.format = .cmd → (∀ n, i.now? = some n → n = now) →
    ∃ c, takeCommand (encode i ++ tail) = some c ∧ c.after = tail ∧
      decodeCommand now c.header c.data = .ok i

/-- Every well-formed slice instruction is 256 bytes and decodes from its encoding (R97 to R106). -/
def Obligations.SlicesDecodeTheirEncoding : Prop :=
  ∀ (i : Instr) (now : TimeStamp),
    i.wellFormed = true → i.format = .slice → (∀ n, i.now? = some n → n = now) →
    (encode i).length = 256 ∧ decodeSlice now (encode i) = .ok i

/-- Every well-formed frame has its format's length and decodes from its encoding (R91, R92). -/
def Obligations.FramesDecodeTheirEncoding : Prop :=
  (∀ now preamble payload checksum,
    (Instr.frame0 now preamble payload checksum).wellFormed = true →
    (encode (.frame0 now preamble payload checksum)).length = 278 ∧
    decodeFrame false now (encode (.frame0 now preamble payload checksum)) =
      .ok (.frame0 now preamble payload checksum)) ∧
  (∀ now preamble payload checksum parity,
    (Instr.frame1 now preamble payload checksum parity).wellFormed = true →
    (encode (.frame1 now preamble payload checksum parity)).length = 343 ∧
    decodeFrame true now (encode (.frame1 now preamble payload checksum parity)) =
      .ok (.frame1 now preamble payload checksum parity))

/-- The other direction: decoding drops no byte. The encoding of what a slice, a frame or a command
decodes to is the slice, the frame, the command. -/
def Obligations.DecodingLosesNoByte : Prop :=
  (∀ now s i, decodeSlice now s = .ok i → i.wellFormed = true ∧ encode i = s) ∧
  (∀ fec now f i, decodeFrame fec now f = .ok i → i.wellFormed = true ∧ encode i = f) ∧
  (∀ now bytes c i, takeCommand bytes = some c → decodeCommand now c.header c.data = .ok i →
    i.wellFormed = true ∧ encode i ++ c.after = bytes)

/-- R109, R110: the headers that decode are exactly those of the table, told by their fields; every
other header is illegal. -/
def Obligations.HeadersDecodeExactlyWhenListed : Prop :=
  ∀ (now : TimeStamp) (op flags : Byte) (len : Half) (data : Bytes),
    (LegalHeader op flags len →
      ∃ i, decodeCommand now (quad32 op flags (hi8 len) (lo8 len)) data = .ok i) ∧
    (¬ LegalHeader op flags len →
      decodeCommand now (quad32 op flags (hi8 len) (lo8 len)) data =
        .error (.illegalHeader (quad32 op flags (hi8 len) (lo8 len))))

/-- Some words written out from the encoding tables decode to what they stand for: commands (R109,
R110, R111), a packet type (R98, R106) and the two frame formats (R91, R92). A sanity statement.
That a word of 32 bits is a header with zero data bytes and a word of 8 bits a slice whose other
bytes are zeros is the model's choice (log 11). -/
def Obligations.WrittenWordsDecodeRight : Prop :=
  decodeTableWord 32 0x02000000 = some (.crc16 []) ∧
  decodeTableWord 32 0x22000000 = some .getStatus ∧
  decodeTableWord 32 0x7F000000 = none ∧
  decodeTableWord 8 0x56 = some (.idle (rep 0 255)) ∧
  decode .cmd .zero [0x21, 0x00, 0x00, 0x03, 0x00, 0x00, 0x02] = .ok (.setConfig 0x00 2) ∧
  decode .cmd .zero [0x10, 0x00, 0x00, 0x01, 0xEF] = .ok (.rxBytes .zero [0xEF]) ∧
  decode .slice .zero (0x56 :: rep 0x12 255) = .ok (.idle (rep 0x12 255)) ∧
  decode .frame0 .zero
      (rep 0x55 16 ++ [0xAB, 0xCD, 0xEF, 0x01] ++ rep 0x56 256 ++ [0x34, 0x12]) =
    .ok (.frame0 .zero (rep 0x55 16) (rep 0x56 256) 0x1234) ∧
  decode .frame1 .zero
      (rep 0x55 16 ++ [0xAB, 0xCD, 0xEF, 0x01] ++ rep 0x56 256 ++ [0x34, 0x12] ++ rep 0xF0 65) =
    .ok (.frame1 .zero (rep 0x55 16) (rep 0x56 256) 0x1234 (rep 0xF0 65))

/-! ### The step -/

/-- When the bytes at the port begin with a whole command that decodes to `i`, the step is `exec i`
on the state whose port is past that command (R7, R260). The port, and what is left at it, is the
model's choice (log 4): the rest of the offer, with the same `NOW`, then the offers after it. -/
def Obligations.StepRunsTheDecodedCommand : Prop :=
  ∀ (s : State) (offer : Offer) (rest : List Offer) (c : TakenCommand) (i : Instr),
    s.port = offer :: rest → takeCommand offer.bytes = some c →
    decodeCommand offer.now c.header c.data = .ok i →
    step s = exec i { s with port := portAfter offer.now c.after rest }

/-- While no command is there whole, a step changes nothing. The model's choice (log 4, log 5),
after R260 ("a command is taken whole") and R294. -/
def Obligations.StepWaitsForAWholeCommand : Prop :=
  (∀ s : State, s.port = [] → step s = .next s) ∧
  (∀ (s : State) (offer : Offer) (rest : List Offer), s.port = offer :: rest →
    offer.bytes.length < 4 → step s = .next s) ∧
  (∀ (s : State) (now : TimeStamp) (op flags : Byte) (len : Half) (data : Bytes)
    (rest : List Offer), s.port = ⟨now, commandBytes op flags len data⟩ :: rest →
    data.length < len.toNat → step s = .next s)

/-- R264, R110: a command whose header matches no row of the table raises `E_CMD` with its header;
its data bytes are consumed, so that the next command starts at the right place; nothing else
changes. What is left at the port is the model's choice (log 4): the bytes after the command stay in
the offer, with the same `NOW`, and an offer without bytes is gone. -/
def Obligations.IllegalCommandsOnlyRaise : Prop :=
  ∀ (s : State) (now : TimeStamp) (op flags : Byte) (len : Half) (data tail : Bytes)
    (rest : List Offer),
    ¬ LegalHeader op flags len → data.length = len.toNat →
    s.port = ⟨now, commandBytes op flags len data ++ tail⟩ :: rest →
    step s = .next (withError 0x01 0 (.header (quad32 op flags (hi8 len) (lo8 len)))
      { s with port := if tail = [] then rest else ⟨now, tail⟩ :: rest })

/-- R280, R292: no step stops the block. -/
def Obligations.EveryStepReachesANextState : Prop :=
  ∀ s : State, ∃ t, step s = .next t

/-- An instruction of a slice row placed for the fetch by its table word runs as itself: the step is
its meaning on the state as it was (R182, R184; log 9, log 11: the model's way to place it). -/
def Obligations.PlacedSliceWordsRunTheirInstruction : Prop :=
  ∀ (w : Nat) (s : State) (i : Instr),
    decodeTableWord 8 w = some i → step (s.withFetchWord 8 w) = exec i s

/-! ### The invariant of the block -/

/-- Every step keeps the invariant: the reserved bits of `CFG` and of `ESTICKY` (R22, R24), the
legal values of `ELAST` (R25), the recognizer's state (R28 to R30, I10), the open context (R34), the
buffer sizes (R60). -/
def Obligations.StepsKeepTheInvariant : Prop :=
  ∀ s t : State, Legal Config.ibufCap s → step s = .next t → Legal Config.ibufCap t

/-- The block after power-on satisfies the invariant. -/
def Obligations.PowerOnSatisfiesTheInvariant : Prop :=
  Legal Config.ibufCap State.reset

/-- R36: `OUT` only grows; every step appends records at its end, and `RESET` erases none. -/
def Obligations.OutputOnlyGrows : Prop :=
  ∀ s t : State, step s = .next t → s.out <+: t.out

/-- R24: a sticky bit, once set, is cleared by no step but `RESET`. -/
def Obligations.StickyBitsStayUntilReset : Prop :=
  ∀ s t : State, step s = .next t → ¬ TakesCommand s .reset →
    ∀ n, s.esticky.getLsbD n = true → t.esticky.getLsbD n = true

/-- R303: when `ESTICKY` is 0 after a step that is not `RESET`, the step raised no error: no record
it appended is an `ERROR`, and `ESTICKY` was 0 before it. -/
def Obligations.NoStickyBitMeansNoError : Prop :=
  ∀ s t : State, step s = .next t → ¬ TakesCommand s .reset → ErrorFree t →
    ErrorFree s ∧ t.elast = s.elast ∧ ∀ r ∈ newRecords s t, r.isError = false

/-- R25: after a step whose records include an error, `ELAST` is the code of the last of them. -/
def Obligations.LastErrorIsTheLatestRaised : Prop :=
  ∀ (s t : State) (before after : List Record) (code : Byte) (info : ErrInfo),
    step s = .next t → newRecords s t = before ++ .error code info :: after →
    (∀ r ∈ after, r.isError = false) → t.elast = code

/-- R200: "There is no transition back to `NoImage` except `RESET`", which the spec marks as derived
from R203 and R205. -/
def Obligations.OnlyResetClosesTheReassembler : Prop :=
  ∀ (s t : State) (ctx : Context), s.rsm = .accumulating ctx → step s = .next t →
    ¬ TakesCommand s .reset → ∃ ctx', t.rsm = .accumulating ctx'

/-! ### The encoder -/

/-- R62, R66, R114, R140: every table entry is in 1..2064 and selects, from the unpacked information
bits, bit `7 - ((e-1) mod 8)` of byte `(e-1) div 8` of the information block. -/
def Obligations.TableEntriesSelectInformationBits : Prop :=
  ∀ (h : HTable) (p i : Nat) (t : TxRegs), t.info.length = 258 →
    1 ≤ tableEntry h p i ∧ tableEntry h p i ≤ 2064 ∧ t.bitUnpack.ibits.length = 2064 ∧
    t.bitUnpack.ibits[tableEntry h p i - 1]? =
      (t.info[(tableEntry h p i - 1) / 8]?).map
        (fun b => b.getLsbD (7 - (tableEntry h p i - 1) % 8))

/-- `FEC_ENCODE` of 258 bytes completes: it emits one `PARITY` record, whose 65 bytes hold the closed
form of the parity bits, and changes nothing but the working registers and `OUT` (R136, which the
spec marks as derived, R137, R141). -/
def Obligations.FecEncodeEmitsTheClosedFormParity : Prop :=
  ∀ (data : Bytes) (s : State), data.length = 258 →
    ∃ t par, exec (.fecEncode data) s = .next t ∧ IsParity Config.hrows data par ∧
      t = { s with tx := t.tx, out := s.out ++ [.parity par] }

/-- R136: parity bit 0 is the sum of row 0, and the XOR of two neighbouring parity bits is the sum of
the later row, which is the parity-check equation a decoder uses. The spec marks this as derived
from R134 and R135. -/
def Obligations.NeighbouringParityBitsCheckTheRows : Prop :=
  ∀ (data : Bytes) (s : State), data.length = 258 →
    ∃ t par, exec (.fecEncode data) s = .next t ∧ t.out = s.out ++ [.parity par] ∧
      infoBit par 0 = rowXor Config.hrows data 0 ∧
      ∀ p, 1 ≤ p → p < 516 →
        (infoBit par p ^^ infoBit par (p - 1)) = rowXor Config.hrows data p

/-- R131: any other length raises `E_FECLEN` with the length and emits no `PARITY`; 258 raises
nothing; `FRAME` never raises it. -/
def Obligations.FecEncodeRefusesWrongLengths : Prop :=
  (∀ (data : Bytes) (s : State), data.length ≠ 258 →
    exec (.fecEncode data) s =
      .next (withError 0x02 1 (.length (BitVec.ofNat 16 data.length)) s)) ∧
  (∀ (data : Bytes) (s : State), data.length = 258 →
    ∃ t, exec (.fecEncode data) s = .next t ∧ t.esticky = s.esticky ∧ t.elast = s.elast) ∧
  (∀ (fec : Bool) (data : Bytes) (s : State),
    ∃ t, exec (.frame fec data) s = .next t ∧ t.esticky = s.esticky ∧ t.elast = s.elast)

/-- R139: the encoder is linear over bytewise XOR, and the all-zero and all-ones blocks have zero
parity. The spec marks this as derived from R136. -/
def Obligations.EncoderIsLinear : Prop :=
  (∀ (a b : Bytes) (s : State), a.length = 258 → b.length = 258 →
    ∃ ta tb tc pa pb,
      exec (.fecEncode a) s = .next ta ∧ ta.out = s.out ++ [.parity pa] ∧
      exec (.fecEncode b) s = .next tb ∧ tb.out = s.out ++ [.parity pb] ∧
      exec (.fecEncode (xorBytes a b)) s = .next tc ∧
      tc.out = s.out ++ [.parity (xorBytes pa pb)]) ∧
  (∀ s : State, ∃ t, exec (.fecEncode (rep 0x00 258)) s = .next t ∧
    t.out = s.out ++ [.parity (rep 0x00 65)]) ∧
  (∀ s : State, ∃ t, exec (.fecEncode (rep 0xFF 258)) s = .next t ∧
    t.out = s.out ++ [.parity (rep 0x00 65)])

/-- What an encode leaves in the working registers it names (R132, R134, R135, R137). That they keep
it after the command is the model's choice (log 6). -/
def Obligations.EncodeWorkingRegisters : Prop :=
  ∀ (data : Bytes) (s : State), data.length = 258 →
    ∃ t par, exec (.fecEncode data) s = .next t ∧ t.out = s.out ++ [.parity par] ∧
      t.tx.info = data ∧ t.tx.parb = par ∧
      (∀ j, j < 2064 → t.tx.ibits[j]? = some (infoBit data j)) ∧
      (∀ p, p < 516 → t.tx.pbits[p]? = some (parityBit Config.hrows data p)) ∧
      t.tx.prev = parityBit Config.hrows data 515 ∧ t.tx.pidx = 515

/-! ### The checksum and the framer -/

/-- R150: the checksum is the bit procedure on natural numbers; that of no bytes is 0xFFFF; that of
zeros is never 0; and the two values the rule works out. The spec marks the procedure as general
knowledge (log 12). -/
def Obligations.ChecksumFollowsTheBitProcedure : Prop :=
  (∀ B : Bytes, (crc16 B).toNat = crcNat B) ∧ crc16 [] = 0xFFFF ∧
  (∀ n, crc16 (rep 0x00 n) ≠ 0) ∧ crc16 [0x31] = 0xC782 ∧
  crc16 [0x31, 0x32, 0x33, 0x34, 0x35, 0x36, 0x37, 0x38, 0x39] = 0x29B1

/-- R151: `CRC16` of any bytes completes with one `CRC` record, the low byte first, and changes
nothing but `OUT` and the checksum working register. That the other working registers keep their
values is the model's choice (log 6). -/
def Obligations.ChecksumCommandEmitsTheChecksum : Prop :=
  ∀ (data : Bytes) (s : State),
    ∃ t lo hi, exec (.crc16 data) s = .next t ∧
      lo.toNat = crcNat data % 256 ∧ hi.toNat = crcNat data / 256 ∧
      t = { s with tx := { s.tx with crcr := t.tx.crcr }, out := s.out ++ [.crc lo hi] }

/-- R152 to R156: `FRAME` of any payload completes with one `FRAME` record: the head, the padded
payload, its checksum low byte first and, with `fec`, the parity of payload and checksum. Nothing but
the working registers and `OUT` changes. -/
def Obligations.FrameCommandBuildsTheFrame : Prop :=
  ∀ (fec : Bool) (data : Bytes) (s : State),
    ∃ t padded par, exec (.frame fec data) s = .next t ∧ IsPadded data padded ∧
      IsParity Config.hrows (padded ++ [lo8 (crc16 padded), hi8 (crc16 padded)]) par ∧
      t = { s with
        tx := t.tx
        out := s.out ++ [.frame (frameHead ++ padded ++
          [lo8 (crc16 padded), hi8 (crc16 padded)] ++ if fec then par else [])] }

/-- R157: every frame has its format's length, the fixed head, a checksum field that is the checksum
of its payload; a `FRAME1` begins with the `FRAME0` of the same payload and ends in four 0 bits. -/
def Obligations.EveryFrameIsWellFormed : Prop :=
  ∀ (data : Bytes) (s : State),
    ∃ t0 f0 t1 f1,
      exec (.frame false data) s = .next t0 ∧ t0.out = s.out ++ [.frame f0] ∧
      exec (.frame true data) s = .next t1 ∧ t1.out = s.out ++ [.frame f1] ∧
      f0.length = 278 ∧ f1.length = 343 ∧ f0.take 20 = frameHead ∧ f1.take 20 = frameHead ∧
      crc16 (memRead f0 20 256) = le16 f0 276 ∧ crc16 (memRead f1 20 256) = le16 f1 276 ∧
      f1.take 278 = f0 ∧ (byteAt f1 342).toNat % 16 = 0

/-- R138, R158, R321 and R26: what a transmit command emits is the same from every state, and it
changes nothing but `OUT` and the working registers, so no state outlives it. -/
def Obligations.TransmitPathIsPure : Prop :=
  ∀ i : Instr, Transmits i → ∃ r, ∀ s : State, ∃ t, exec i s = .next t ∧
    t = { s with tx := t.tx, out := s.out ++ [r] }

/-! ### The recognizer -/

/-- R172, R173: a byte in `HUNT` enters the window; a window equal to the unique word starts a
capture, with the length that `CFG.RXFEC` gives at that moment; the byte itself is not stored. -/
def Obligations.ByteInHunt : Prop :=
  ∀ (now : TimeStamp) (b : Byte) (s : State) (w : Word), s.rxfState = .hunt →
    w.toNat = (s.rxfWin.toNat * 256 + b.toNat) % 2 ^ 32 →
    (w = 0xABCDEF01 → exec (.rxBytes now [b]) s =
      .next { s with rxfWin := w, rxfState := .capture, rxfCnt := 0,
                     rxfLen := if s.cfg.getLsbD 0 then 323 else 258 }) ∧
    (w ≠ 0xABCDEF01 → exec (.rxBytes now [b]) s = .next { s with rxfWin := w })

/-- R174: a byte in `CAPTURE` that does not end the frame is stored at index `RXF_CNT`; the window is
not updated and the unique word not looked for. -/
def Obligations.ByteInCapture : Prop :=
  ∀ (now : TimeStamp) (b : Byte) (s : State), s.rxfState = .capture → s.rxfBuf.length = 323 →
    s.rxfCnt.toNat < 323 → s.rxfCnt + 1 ≠ s.rxfLen →
    exec (.rxBytes now [b]) s =
      .next { s with rxfBuf := s.rxfBuf.set s.rxfCnt.toNat b, rxfCnt := s.rxfCnt + 1 }

/-- R175 to R178: the byte that ends a frame returns the recognizer to `HUNT` with a clear window;
the payload is delivered when the received checksum, low byte first, is that of the payload, and
`E_CRC` is raised with both otherwise. -/
def Obligations.ByteThatEndsAFrame : Prop :=
  ∀ (now : TimeStamp) (b : Byte) (s : State) (buf : Bytes), s.rxfState = .capture →
    s.rxfBuf.length = 323 → s.rxfCnt.toNat < 323 → s.rxfCnt + 1 = s.rxfLen →
    buf = s.rxfBuf.set s.rxfCnt.toNat b →
    exec (.rxBytes now [b]) s =
      .next (delivered now (buf.take 256) (byteAt buf 257 ++ byteAt buf 256)
        { s with rxfBuf := buf })

/-- R171, R75, R186: receiving a byte sequence is receiving its parts one after the other: a frame may
be split between commands at any byte; no bytes do nothing. -/
def Obligations.ReceivedBytesMayBeSplit : Prop :=
  (∀ (now : TimeStamp) (s : State), exec (.rxBytes now []) s = .next s) ∧
  (∀ (now : TimeStamp) (a b : Bytes) (s : State),
    ∃ t, exec (.rxBytes now a) s = .next t ∧
      exec (.rxBytes now (a ++ b)) s = exec (.rxBytes now b) t)

/-- `RX_BYTES` of any bytes completes, and writes only the recognizer registers, the reassembler, the
error registers and `OUT` (R171, R8). -/
def Obligations.ReceivedBytesFrame : Prop :=
  ∀ (now : TimeStamp) (data : Bytes) (s : State),
    ∃ t, exec (.rxBytes now data) s = .next t ∧ t.cfg = s.cfg ∧ t.ncad = s.ncad ∧ t.tx = s.tx ∧
      t.port = s.port ∧ s.out <+: t.out

/-- R170 for a frame without parity: a `FRAME0` that arrives in `HUNT` with `RXFEC = 0`, whatever its
preamble if no byte of it is 0x01, is stripped to its payload, which is delivered exactly once if the
checksum is right; `E_CRC` is raised if not. -/
def Obligations.FrameWithoutParityIsReceived : Prop :=
  ∀ (now : TimeStamp) (preamble payload : Bytes) (checksum : Half) (s : State),
    (Instr.frame0 now preamble payload checksum).wellFormed = true → (0x01 : Byte) ∉ preamble →
    s.rxfState = .hunt → s.cfg.getLsbD 0 = false →
    exec (.frame0 now preamble payload checksum) s =
      .next (delivered now payload checksum
        { s with rxfLen := 258,
                 rxfBuf := payload ++ [lo8 checksum, hi8 checksum] ++ s.rxfBuf.drop 258 })

/-- R170 and R181 for a frame with parity, with `RXFEC = 1`: the same, and the parity bytes are
stored and have no other effect. -/
def Obligations.FrameWithParityIsReceived : Prop :=
  ∀ (now : TimeStamp) (preamble payload : Bytes) (checksum : Half) (parity : Bytes) (s : State),
    (Instr.frame1 now preamble payload checksum parity).wellFormed = true →
    (0x01 : Byte) ∉ preamble → s.rxfState = .hunt → s.cfg.getLsbD 0 = true →
    exec (.frame1 now preamble payload checksum parity) s =
      .next (delivered now payload checksum
        { s with rxfLen := 323,
                 rxfBuf := payload ++ [lo8 checksum, hi8 checksum] ++ parity ++
                   s.rxfBuf.drop 323 })

/-- R181: the parity of a received frame is not decoded, not compared, not passed on: two frames that
differ in nothing else leave states that differ in `RXF_BUF` alone. -/
def Obligations.ReceivedParityIsNeverRead : Prop :=
  ∀ (now : TimeStamp) (preamble payload : Bytes) (checksum : Half) (p q : Bytes) (s : State),
    (Instr.frame1 now preamble payload checksum p).wellFormed = true →
    (Instr.frame1 now preamble payload checksum q).wellFormed = true →
    (0x01 : Byte) ∉ preamble → s.rxfState = .hunt → s.cfg.getLsbD 0 = true →
    ∃ t u, exec (.frame1 now preamble payload checksum p) s = .next t ∧
      exec (.frame1 now preamble payload checksum q) s = .next u ∧
      u = { t with rxfBuf := u.rxfBuf }

/-- What the block frames it receives (R117, R157, R170): with `RXFEC` set to the transmitter's `fec`,
the frame a `FRAME` command emitted is found in `HUNT` from any window, and its padded payload is
delivered; no error is raised by the recognizer. -/
def Obligations.FramedPayloadsAreDelivered : Prop :=
  ∀ (now : TimeStamp) (fec : Bool) (data : Bytes) (s : State), s.rxfState = .hunt →
    ∃ a b t f padded,
      exec (.setConfig (if fec then 1 else 0) s.ncad) s = .next a ∧
      exec (.frame fec data) a = .next b ∧ b.out = s.out ++ [.frame f] ∧
      IsPadded data padded ∧ exec (.rxBytes now f) b = .next t ∧
      t = classify Config.ibufCap now padded
        { b with rxfState := .hunt, rxfWin := 0, rxfCnt := 0, rxfLen := t.rxfLen,
                 rxfBuf := t.rxfBuf }

/-- R265: a change of `CFG.RXFEC` while a frame is in capture does not change that frame: up to and
including its last byte, everything is as without the change, but for `CFG` itself. -/
def Obligations.ConfigChangeSparesTheFrameInCapture : Prop :=
  ∀ (now : TimeStamp) (data : Bytes) (s : State) (cfg : Byte), s.rxfState = .capture →
    s.rxfCnt < s.rxfLen → data.length ≤ s.rxfLen.toNat - s.rxfCnt.toNat →
    ∃ t, exec (.rxBytes now data) s = .next t ∧
      exec (.rxBytes now data) { s with cfg := cfg } = .next { t with cfg := cfg }

/-- R183: a slice of any length but 256 raises `E_SLICELEN` with the length, and nothing else
changes: it is not classified. -/
def Obligations.SlicesOfWrongLengthAreRefused : Prop :=
  ∀ (now : TimeStamp) (data : Bytes) (s : State), data.length ≠ 256 →
    exec (.rxSlice now data) s =
      .next (withError 0x04 3 (.length (BitVec.ofNat 16 data.length)) s)

/-- R182, R184: `RX_SLICE` of 256 bytes that decode to a packet type runs that packet type. -/
def Obligations.SliceCommandRunsItsPacketType : Prop :=
  ∀ (now : TimeStamp) (slice : Bytes) (i : Instr) (s : State), decodeSlice now slice = .ok i →
    ∃ t, exec (.rxSlice now slice) s = .next t ∧ exec i s = .next t

/-- R182, R186: `RX_SLICE` completes whatever the slice and disturbs neither the recognizer nor the
configuration. -/
def Obligations.SliceCommandSparesTheRecognizer : Prop :=
  ∀ (now : TimeStamp) (data : Bytes) (s : State),
    ∃ t, exec (.rxSlice now data) s = .next t ∧ SameRecognizer s t ∧ t.cfg = s.cfg ∧
      t.ncad = s.ncad ∧ t.tx = s.tx ∧ t.port = s.port ∧ s.out <+: t.out

/-- R185, R99: a slice whose first byte is none of the seven type codes raises `E_TYPE` with that
byte; nothing else changes. -/
def Obligations.ReservedTypesAreRefused : Prop :=
  ∀ (now : TimeStamp) (slice : Bytes) (s : State), slice.length = 256 →
    ¬ KnownType (byteAt slice 0) →
    exec (.rxSlice now slice) s = .next (withError 0x05 4 (.typeByte (byteAt slice 0)) s)

/-! ### The packet types -/

/-- R230: a text packet of length up to 252 is dispatched whole as `TELEM(0x00, slice)`; a longer one
raises `E_STRUCT` with the type and the length; nothing else changes. -/
def Obligations.TextMessageIsDispatchedOrRefused : Prop :=
  ∀ (length : Byte) (seq : Half) (rest : Bytes) (s : State),
    (length.toNat ≤ 252 → exec (.textMessage length seq rest) s =
      .next { s with out := s.out ++
        [.telem 0x00 ([0x00, length, hi8 seq, lo8 seq] ++ rest)] }) ∧
    (252 < length.toNat → exec (.textMessage length seq rest) s =
      .next (withError 0x06 5 (.typeAndField 0x00 length) s))

/-- R231 to R234, R208: the other telemetry packets are dispatched whole, type byte first, whatever
they hold; nothing but `OUT` changes. -/
def Obligations.TelemetryIsDispatchedWhole : Prop :=
  (∀ (g : GpsFields) (rest : Bytes) (s : State), exec (.gpsTelemetry g rest) s =
    .next { s with out := s.out ++ [.telem 0x01
      ([0x01, hi8 g.week, lo8 g.week] ++ be32Bytes g.towMs ++ [g.leapS] ++ be32Bytes g.lat ++
        be32Bytes g.lon ++ be32Bytes g.alt ++ be32Bytes g.groundSpeed ++ be32Bytes g.heading ++
        be32Bytes g.ascentRate ++ [g.numSV, g.fixStatus, g.dynamicModel] ++ rest)] }) ∧
  (∀ (week : Half) (tow : Word) (leap : Byte) (rest : Bytes) (s : State),
    exec (.orientationTelemetry week tow leap rest) s =
      .next { s with out := s.out ++ [.telem 0x02
        ([0x02, hi8 week, lo8 week] ++ be32Bytes tow ++ [leap] ++ rest)] }) ∧
  (∀ (subid : Byte) (data : Bytes) (s : State), exec (.secPayloadTelemetry subid data) s =
    .next { s with out := s.out ++ [.telem 0x03 ([0x03, subid] ++ data)] }) ∧
  (∀ (rest : Bytes) (s : State), exec (.imageTelemetry rest) s =
    .next { s with out := s.out ++ [.telem 0x54 (0x54 :: rest)] })

/-- R236, R209: an idle packet changes nothing at all, alone or as a slice, whatever its other bytes
are. -/
def Obligations.IdleChangesNothing : Prop :=
  (∀ (rest : Bytes) (s : State), exec (.idle rest) s = .next s) ∧
  (∀ (now : TimeStamp) (rest : Bytes) (s : State), rest.length = 255 →
    exec (.rxSlice now (0x56 :: rest)) s = .next s)

/-- R205, R207, R217: an SSDV packet with another key, or in `NoImage`, finalizes the open context if
there is one, with all the bytes it holds, and opens a new one with count 1, the packet's slice and
this command's `NOW`; nothing else changes and no preview is tested for. -/
def Obligations.SsdvWithAnotherKeyIsABoundary : Prop :=
  ∀ (now : TimeStamp) (h : SsdvHeader) (rest : Bytes) (s : State),
    (s.rsm = .noImage → exec (.ssdv now h rest) s =
      .next { s with rsm := .accumulating ⟨h.imageId, h.code, 1, now, encode (.ssdv now h rest)⟩ }) ∧
    (∀ ctx, s.rsm = .accumulating ctx → ctx.ibuf.length = 256 * ctx.pktCount →
      ¬ SameImage ctx h → exec (.ssdv now h rest) s =
        .next { s with
          out := s.out ++ [.final ctx.curId ctx.curCode ctx.pktCount ctx.ctxTs ctx.ibuf]
          rsm := .accumulating ⟨h.imageId, h.code, 1, now, encode (.ssdv now h rest)⟩ })

/-- R203, R204, R212: an SSDV packet with the open context's key is appended whole, with a `PREVIEW`
when `NCAD` is not 0 and divides the new count; with the buffer full it raises `E_OVERFLOW` with the
packet's key instead and the context stays as it was. -/
def Obligations.SsdvWithTheSameKeyIsAppended : Prop :=
  ∀ (now : TimeStamp) (h : SsdvHeader) (rest : Bytes) (s : State) (ctx : Context),
    s.rsm = .accumulating ctx → ctx.ibuf.length = 256 * ctx.pktCount → rest.length = 245 →
    SameImage ctx h →
    exec (.ssdv now h rest) s =
      .next (if Config.ibufCap = some ctx.pktCount then
          withError 0x08 6 (.sliceKey h.imageId h.code) s
        else
          { s with
            rsm := .accumulating { ctx with
              pktCount := ctx.pktCount + 1, ibuf := ctx.ibuf ++ encode (.ssdv now h rest) }
            out := s.out ++
              if s.ncad ≠ 0 ∧ (ctx.pktCount + 1) % s.ncad.toNat = 0 then
                [.preview ctx.curId ctx.curCode (ctx.pktCount + 1)
                  (ctx.ibuf ++ encode (.ssdv now h rest))]
              else [] })

/-- R208 to R210: nothing but an SSDV packet, and `RESET`, changes the reassembler: not the transmit
commands, not the configuration, not a packet of another type, not a slice of a wrong length or of
an unrecognized type, not an illegal command, and no received byte but one that ends a frame whose
checksum is right and whose payload is an SSDV packet. A frame is received byte by byte, as any
bytes are (that frames are instructions: log 9). -/
def Obligations.OnlySsdvChangesTheReassembler : Prop :=
  (∀ (i : Instr) (s : State),
    (i.format = .slice ∧ ∀ now h rest, i ≠ .ssdv now h rest) ∨
      (i.format = .cmd ∧ i ≠ .reset ∧ (∀ now data, i ≠ .rxBytes now data) ∧
        ∀ now data, i ≠ .rxSlice now data) →
    ∃ t, exec i s = .next t ∧ t.rsm = s.rsm) ∧
  (∀ (now : TimeStamp) (data : Bytes) (s : State),
    data.length ≠ 256 ∨ byteAt data 0 ≠ 0x55 →
    ∃ t, exec (.rxSlice now data) s = .next t ∧ t.rsm = s.rsm) ∧
  (∀ s t : State, (∀ i, ¬ TakesCommand s i) → step s = .next t → t.rsm = s.rsm) ∧
  (∀ (now : TimeStamp) (b : Byte) (s : State),
    s.rxfState = .hunt ∨ s.rxfCnt + 1 ≠ s.rxfLen →
    ∃ t, exec (.rxBytes now [b]) s = .next t ∧ t.rsm = s.rsm) ∧
  (∀ (now : TimeStamp) (b : Byte) (s : State) (buf : Bytes), s.rxfState = .capture →
    s.rxfBuf.length = 323 → s.rxfCnt.toNat < 323 → s.rxfCnt + 1 = s.rxfLen →
    buf = s.rxfBuf.set s.rxfCnt.toNat b →
    crc16 (buf.take 256) ≠ byteAt buf 257 ++ byteAt buf 256 ∨ byteAt buf 0 ≠ 0x55 →
    ∃ t, exec (.rxBytes now [b]) s = .next t ∧ t.rsm = s.rsm) ∧
  (∀ (now : TimeStamp) (b : Byte) (bs : Bytes) (s : State),
    ∃ t, exec (.rxBytes now [b]) s = .next t ∧
      exec (.rxBytes now (b :: bs)) s = exec (.rxBytes now bs) t) ∧
  (∀ (i : Instr) (now : TimeStamp) (s : State), i.format = .frame0 ∨ i.format = .frame1 →
    i.now? = some now → exec i s = exec (.rxBytes now (encode i)) s)

/-- R215: the packet id, the FEC indicator, the size fields and the bytes after them have no effect
on any transition. Two packets with the same key, from one state whose buffer has the size its count
gives (R34), leave equal states, the overflow with the reassembler as it was; or states that are
equal but for the 256 stored bytes, which stand at the end of the buffer, after all the bytes it held
or, in a new context, alone; and the records are equal but for those bytes in the buffer of a
`PREVIEW`. -/
def Obligations.ReassemblerReadsOnlyTheKey : Prop :=
  ∀ (now : TimeStamp) (g h : SsdvHeader) (p q : Bytes) (s : State),
    g.code = h.code → g.imageId = h.imageId → p.length = 245 → q.length = 245 →
    (∀ ctx, s.rsm = .accumulating ctx → ctx.ibuf.length = 256 * ctx.pktCount) →
    (∃ t, exec (.ssdv now g p) s = .next t ∧ exec (.ssdv now h q) s = .next t ∧ t.rsm = s.rsm) ∨
    (∃ ctx old recs, HoldBufferOnly recs ∧
      (old = [] ∨ ∃ held, s.rsm = .accumulating held ∧ old = held.ibuf) ∧
      (encode (.ssdv now g p)).length = 256 ∧ (encode (.ssdv now h q)).length = 256 ∧
      exec (.ssdv now g p) s = .next (stored s ctx old recs (encode (.ssdv now g p))) ∧
      exec (.ssdv now h q) s = .next (stored s ctx old recs (encode (.ssdv now h q))))

/-- R291, R292: a unit that raises an error changes nothing but the two error registers, and its only
record is the error. A packet, a slice, an encode, a configuration command; an illegal command, whose
bytes leave the port (log 4); a received byte, where the frame end has the exception of the rule: the
byte is stored and the recognizer is back in `HUNT` with a clear window. -/
def Obligations.ErrorsLeaveNoPartialEffect : Prop :=
  (∀ (i : Instr) (s : State),
    i.format = .slice ∨ (∃ now data, i = .rxSlice now data) ∨ (∃ data, i = .fecEncode data) ∨
      (∃ cfg ncad, i = .setConfig cfg ncad) →
    ∃ t, exec i s = .next t ∧
      ((∃ r ∈ newRecords s t, r.isError = true) →
        ∃ code info, t = { s with esticky := t.esticky, elast := code,
                                  out := s.out ++ [.error code info] })) ∧
  (∀ (s : State) (f : Fetched), fetch s = some f → (∀ i, ¬ TakesCommand s i) →
    ∃ t, step s = .next t ∧
      t = { s with port := f.state.port, esticky := t.esticky, elast := 0x01,
                   out := s.out ++ [.error 0x01 (.header f.header)] }) ∧
  (∀ (now : TimeStamp) (b : Byte) (s : State), s.rxfBuf.length = 323 → s.rxfCnt.toNat < 323 →
    ∃ t, exec (.rxBytes now [b]) s = .next t ∧
      ((∃ r ∈ newRecords s t, r.isError = true) →
        s.rxfState = .capture ∧ s.rxfCnt + 1 = s.rxfLen ∧
        ∃ code info, t = { afterFrame s with
          rxfBuf := s.rxfBuf.set s.rxfCnt.toNat b, esticky := t.esticky, elast := code,
          out := s.out ++ [.error code info] }))

/-! ### The callsign code -/

/-- R237, R107: `CallDecode` is the base-40 digits of the code, least significant first, ending where
the quotient is 0, as characters of the alphabet; at most 7 of them. -/
def Obligations.CallsignIsTheBaseFortyDigits : Prop :=
  ∀ code : Word,
    callDecode code =
      (Nat.digits 40 code.toNat).map
        (fun d => "-0123456789---ABCDEFGHIJKLMNOPQRSTUVWXYZ".toList.getD d ' ') ∧
    (callDecode code).length ≤ 7

/-- R238: the code is not injective, but every string of at most 6 characters that does not end in
`-` is decoded back from the code an encoder computes for it, whichever digits it takes for its
characters; a last digit 0 is lost. The spec marks these as derived from R237 and R107. -/
def Obligations.CallsignRoundTrip : Prop :=
  callDecode 11 = ['-'] ∧ callDecode 12 = ['-'] ∧ callDecode 13 = ['-'] ∧
  callDecode 454 = ['A', '-'] ∧ callDecode 494 = ['A', '-'] ∧ callDecode 14 = ['A'] ∧
  (∀ ds : List Nat, ds.length ≤ 6 → (∀ d ∈ ds, d < 40) →
    (ds.map callChar).getLast? ≠ some '-' →
    callDecode (BitVec.ofNat 32 (callCode ds)) = ds.map callChar) ∧
  (∀ ds : List Nat, callDecode (BitVec.ofNat 32 (callCode (ds ++ [0]))) =
    callDecode (BitVec.ofNat 32 (callCode ds)))

/-! ### The system commands and errors -/

/-- R39, R320: the block after power-on holds the values the spec gives for reset, with `OUT` empty;
`RESET` gives the same values from any state, and leaves `OUT` as it is. -/
def Obligations.PowerOnAndResetAgree : Prop :=
  HasResetValues State.reset ∧ State.reset.out = [] ∧
  (∀ s : State, ∃ t, exec .reset s = .next t ∧ HasResetValues t ∧ t.out = s.out)

/-- R261: `RESET` writes the listed registers; no record; a header with flags or a length is no
`RESET`. That it leaves `RXF_BUF`, the working registers and the port unchanged is the model's
reading (log 10). -/
def Obligations.ResetCommandResets : Prop :=
  (∀ s : State, exec .reset s =
    .next { s with
      cfg := 0x01, ncad := 0, esticky := 0, elast := 0, rxfState := .hunt, rxfWin := 0,
      rxfCnt := 0, rxfLen := 0, rsm := .noImage }) ∧
  (∀ (now : TimeStamp) (flags : Byte) (len : Half) (data : Bytes), flags ≠ 0 ∨ len ≠ 0 →
    decodeCommand now (quad32 0x20 flags (hi8 len) (lo8 len)) data =
      .error (.illegalHeader (quad32 0x20 flags (hi8 len) (lo8 len))))

/-- R262: `SET_CONFIG` writes both registers, or neither and raises `E_CMD` with its header when a
reserved bit of the new `CFG` is 1; a header with flags or another length is no `SET_CONFIG`. -/
def Obligations.SetConfigWritesBothOrNeither : Prop :=
  (∀ (cfg : Byte) (ncad : Half) (s : State), cfg = 0 ∨ cfg = 1 →
    exec (.setConfig cfg ncad) s = .next { s with cfg := cfg, ncad := ncad }) ∧
  (∀ (cfg : Byte) (ncad : Half) (s : State), cfg ≠ 0 → cfg ≠ 1 →
    exec (.setConfig cfg ncad) s = .next (withError 0x01 0 (.header 0x21000003) s)) ∧
  (∀ (now : TimeStamp) (c n1 n0 : Byte),
    decodeCommand now 0x21000003 [c, n1, n0] = .ok (.setConfig c (n1 ++ n0))) ∧
  (∀ (now : TimeStamp) (flags : Byte) (len : Half) (data : Bytes), flags ≠ 0 ∨ len ≠ 3 →
    decodeCommand now (quad32 0x21 flags (hi8 len) (lo8 len)) data =
      .error (.illegalHeader (quad32 0x21 flags (hi8 len) (lo8 len))))

/-- R263: `GET_STATUS` emits the registers and, when an image is open, its key and count; it changes
no register; a header with flags or a length is no `GET_STATUS`. -/
def Obligations.GetStatusReportsAndChangesNothing : Prop :=
  (∀ s : State, s.rsm = .noImage → exec .getStatus s =
    .next { s with out := s.out ++
      [.status s.cfg s.ncad s.esticky s.elast s.rxfState none] }) ∧
  (∀ (s : State) (ctx : Context), s.rsm = .accumulating ctx → exec .getStatus s =
    .next { s with out := s.out ++
      [.status s.cfg s.ncad s.esticky s.elast s.rxfState
        (some ⟨ctx.curId, ctx.curCode, ctx.pktCount⟩)] }) ∧
  (∀ (now : TimeStamp) (flags : Byte) (len : Half) (data : Bytes), flags ≠ 0 ∨ len ≠ 0 →
    decodeCommand now (quad32 0x22 flags (hi8 len) (lo8 len)) data =
      .error (.illegalHeader (quad32 0x22 flags (hi8 len) (lo8 len))))

/-- R281, R290: raising an error sets its sticky bit and no other, writes its code to `ELAST`, and
emits one `ERROR` record with its code and information; the codes, bits and information are those
of the table. -/
def Obligations.RaisingFollowsTheErrorTable : Prop :=
  ∀ s : State,
    (∀ h, s.raise (.cmd h) = withError 0x01 0 (.header h) s) ∧
    (∀ n, s.raise (.fecLen n) = withError 0x02 1 (.length n) s) ∧
    (∀ c r, s.raise (.crc c r) = withError 0x03 2 (.checksums c r) s) ∧
    (∀ n, s.raise (.sliceLen n) = withError 0x04 3 (.length n) s) ∧
    (∀ b, s.raise (.packetType b) = withError 0x05 4 (.typeByte b) s) ∧
    (∀ t f, s.raise (.packetStruct t f) = withError 0x06 5 (.typeAndField t f) s) ∧
    (∀ i c, s.raise (.overflow i c) = withError 0x08 6 (.sliceKey i c) s)
end

