-- ==== Sys2Proof/Laws/Bytes.lean ====
section
/-! SUPPORT. Laws of the byte and bit helpers: what joining and splitting values does, what a buffer
holds after a write, and that packing and unpacking bits agree. -/

namespace Sys2Proof

/-- A bit of two joined bytes. -/
theorem pair16_bit (h l : Byte) (i : Nat) :
    (pair16 h l).getLsbD i = if i < 8 then l.getLsbD i else h.getLsbD (i - 8) :=
  BitVec.getLsbD_append

/-- A bit of four joined bytes. -/
theorem quad32_bit (b0 b1 b2 b3 : Byte) (i : Nat) :
    (quad32 b0 b1 b2 b3).getLsbD i =
      if i < 8 then b3.getLsbD i
      else if i < 16 then b2.getLsbD (i - 8)
      else if i < 24 then b1.getLsbD (i - 16) else b0.getLsbD (i - 24) := by
  refine (BitVec.getLsbD_append (x := (b0 ++ b1 ++ b2 : BitVec 24)) (y := b3)).trans ?_
  split
  · rfl
  · refine (BitVec.getLsbD_append (x := (b0 ++ b1 : BitVec 16)) (y := b2)).trans ?_
    have h8 : (i - 8 < 8) = (i < 16) := by apply propext; omega
    simp only [h8]
    split
    · rfl
    · refine (BitVec.getLsbD_append (x := b0) (y := b1)).trans ?_
      have h16 : (i - 8 - 8 < 8) = (i < 24) := by apply propext; omega
      have e1 : i - 8 - 8 = i - 16 := by omega
      have e2 : i - 8 - 8 - 8 = i - 24 := by omega
      simp only [h16, e2]
      simp only [e1]

@[simp] theorem pair16_hi8_lo8 (v : Half) : pair16 (hi8 v) (lo8 v) = v := by
  apply BitVec.eq_of_getLsbD_eq
  intro i hi
  rw [pair16_bit]
  simp only [hi8, lo8, BitVec.getLsbD_extractLsb']
  split
  · next h => simp [h]
  · next h =>
    have h1 : i - 8 < 8 := by omega
    have h2 : 8 + (i - 8) = i := by omega
    simp [h1, h2]

@[simp] theorem hi8_pair16 (h l : Byte) : hi8 (pair16 h l) = h := by
  apply BitVec.eq_of_getLsbD_eq
  intro i hi
  simp [hi8, pair16_bit, hi]

@[simp] theorem lo8_pair16 (h l : Byte) : lo8 (pair16 h l) = l := by
  apply BitVec.eq_of_getLsbD_eq
  intro i hi
  simp [lo8, pair16_bit, hi]

/-- A 32-bit value is the join of its four bytes. -/
@[simp] theorem quad32_extract (v : Word) :
    quad32 (v.extractLsb' 24 8) (v.extractLsb' 16 8) (v.extractLsb' 8 8) (v.extractLsb' 0 8) = v := by
  apply BitVec.eq_of_getLsbD_eq
  intro i hi
  rw [quad32_bit]
  simp only [BitVec.getLsbD_extractLsb']
  split
  · next h => simp [h]
  · split
    · have h1 : i - 8 < 8 := by omega
      have h2 : 8 + (i - 8) = i := by omega
      simp [h1, h2]
    · split
      · have h1 : i - 16 < 8 := by omega
        have h2 : 16 + (i - 16) = i := by omega
        simp [h1, h2]
      · have h1 : i - 24 < 8 := by omega
        have h2 : 24 + (i - 24) = i := by omega
        simp [h1, h2]

/-- The bytes of a 32-bit value joined from four are those four. -/
theorem be32Bytes_quad32 (b0 b1 b2 b3 : Byte) :
    be32Bytes (quad32 b0 b1 b2 b3) = [b0, b1, b2, b3] := by
  have e : ∀ (n : Nat) (b : Byte), (∀ i, i < 8 → (quad32 b0 b1 b2 b3).getLsbD (n + i) = b.getLsbD i) →
      (quad32 b0 b1 b2 b3).extractLsb' n 8 = b := by
    intro n b hb
    apply BitVec.eq_of_getLsbD_eq
    intro i hi
    simp [hi, hb i hi]
  simp only [be32Bytes]
  rw [e 24 b0, e 16 b1, e 8 b2, e 0 b3] <;>
    (intro i hi; rw [quad32_bit])
  · simp [hi]
  · simp [hi]
    intro h; omega
  · have h1 : ¬ 16 + i < 8 := by omega
    have h2 : ¬ 16 + i < 16 := by omega
    have h3 : 16 + i < 24 := by omega
    simp [h1, h2, h3]
  · have h1 : ¬ 24 + i < 8 := by omega
    have h2 : ¬ 24 + i < 16 := by omega
    have h3 : ¬ 24 + i < 24 := by omega
    simp [h1, h2, h3]

/-- The bytes of a 16-bit value joined from two are those two. -/
theorem be16Bytes_pair16 (h l : Byte) : be16Bytes (pair16 h l) = [h, l] := by
  simp [be16Bytes]

@[simp] theorem be16Bytes_length (v : Half) : (be16Bytes v).length = 2 := rfl
@[simp] theorem le16Bytes_length (v : Half) : (le16Bytes v).length = 2 := rfl
@[simp] theorem be32Bytes_length (v : Word) : (be32Bytes v).length = 4 := rfl
@[simp] theorem rep_length {α : Type} (b : α) (n : Nat) : (rep b n).length = n := by simp [rep]

theorem hasAtLeast_iff {α : Type} (n : Nat) (l : List α) :
    hasAtLeast n l = true ↔ n ≤ l.length := by
  induction n generalizing l with
  | zero => simp [hasAtLeast]
  | succ n ih => cases l <;> simp [hasAtLeast, ih]

theorem memRead_length {α : Type} (S : List α) (a n : Nat) :
    (memRead S a n).length = min n (S.length - a) := by
  simp [memRead]

/-- A write inside a buffer keeps its length. -/
theorem memWrite_length {α : Type} (S : List α) (a : Nat) (v : List α)
    (h : a + v.length ≤ S.length) : (memWrite S a v).length = S.length := by
  simp [memWrite]; omega

/-- What a write at the start of a buffer leaves is read back. -/
theorem memRead_memWrite_start {α : Type} (S v : List α) (n : Nat) (h : v.length = n) :
    memRead (memWrite S 0 v) 0 n = v := by
  subst h
  simp [memRead, memWrite]

/-- A write at the end of a buffer appends. -/
theorem memWrite_end {α : Type} (S v : List α) : memWrite S S.length v = S ++ v := by
  simp [memWrite]

/-- Two writes, the second right after the first, are one. -/
theorem memWrite_memWrite {α : Type} (S v w : List α) (a : Nat) (h : a ≤ S.length) :
    memWrite (memWrite S a v) (a + v.length) w = memWrite S a (v ++ w) := by
  obtain ⟨A, B, rfl, rfl⟩ : ∃ A B, S = A ++ B ∧ a = A.length :=
    ⟨S.take a, S.drop a, (List.take_append_drop a S).symm, by simp [h]⟩
  have e : ∀ x : List α, memWrite (A ++ B) A.length x = A ++ (x ++ B.drop x.length) := by
    intro x
    simp [memWrite]
  rw [e, e]
  simp only [memWrite, List.length_append]
  have h1 : (A ++ (v ++ B.drop v.length)).take (A.length + v.length) = A ++ v := by
    rw [← List.append_assoc, ← List.length_append, List.take_left']
    rfl
  have h2 : (A ++ (v ++ B.drop v.length)).drop (A.length + v.length + w.length) =
      B.drop (v.length + w.length) := by
    rw [← List.append_assoc, ← List.length_append, List.drop_append]
    simp
  rw [h1, h2]
  simp

theorem byteAt_append_left (A B : Bytes) (a : Nat) (h : a < A.length) :
    byteAt (A ++ B) a = byteAt A a := by
  simp [byteAt, List.getD_eq_getElem?_getD, List.getElem?_append_left h]

theorem byteAt_append_right (A B : Bytes) (a : Nat) (h : A.length ≤ a) :
    byteAt (A ++ B) a = byteAt B (a - A.length) := by
  simp [byteAt, List.getD_eq_getElem?_getD, List.getElem?_append_right h]

/-- Bit `7 - t` of a packed byte is bit `t` of what was packed (R65). -/
theorem packByte_bit (f : Nat → Bool) (t : Nat) (ht : t < 8) :
    (packByte f).getLsbD (7 - t) = f t := by
  have key : ∀ b0 b1 b2 b3 b4 b5 b6 b7 : Bool, ∀ k : Fin 8,
      (packByte fun j => [b0, b1, b2, b3, b4, b5, b6, b7].getD j false).getLsbD (7 - k) =
        [b0, b1, b2, b3, b4, b5, b6, b7].getD k false := by decide
  have hp : packByte f =
      packByte fun j => [f 0, f 1, f 2, f 3, f 4, f 5, f 6, f 7].getD j false := rfl
  rw [hp, key _ _ _ _ _ _ _ _ ⟨t, ht⟩]
  interval_cases t <;> rfl

end Sys2Proof
end

