-- ==== Sys2Proof/Laws/Decode.lean ====
section
/-! SUPPORT. Laws of the decoder: a header by its fields, taking a command off a byte string, the
type codes, and what the encoders' fields read back as. -/

namespace Sys2Proof

/-- The length field of a header is its last two bytes (R108). -/
@[simp] theorem headerLen_quad32 (op flags : Byte) (len : Half) :
    headerLen (quad32 op flags (hi8 len) (lo8 len)) = len := by
  apply BitVec.eq_of_getLsbD_eq
  intro i hi
  simp only [headerLen, BitVec.getLsbD_extractLsb', quad32_bit, hi, Nat.zero_add, decide_true,
    Bool.true_and]
  rw [← pair16_hi8_lo8 len, pair16_bit]
  simp

/-- Flag bit 0 of a header is bit 0 of its second byte (R109). -/
@[simp] theorem headerFec_quad32 (op flags b2 b3 : Byte) :
    headerFec (quad32 op flags b2 b3) = flags.getLsbD 0 := by
  unfold headerFec headerFlags
  rw [BitVec.getLsbD_extractLsb', quad32_bit]
  simp

/-- Masking a header is masking its four bytes. -/
theorem quad32_and_eq_iff (op flags b2 b3 : Byte) (m p : Word) :
    quad32 op flags b2 b3 &&& m = p ↔
      (op &&& m.extractLsb' 24 8 = p.extractLsb' 24 8 ∧
       flags &&& m.extractLsb' 16 8 = p.extractLsb' 16 8 ∧
       b2 &&& m.extractLsb' 8 8 = p.extractLsb' 8 8 ∧
       b3 &&& m.extractLsb' 0 8 = p.extractLsb' 0 8) := by
  constructor
  · rintro rfl
    refine ⟨?_, ?_, ?_, ?_⟩ <;>
      (apply BitVec.eq_of_getLsbD_eq; intro i hi; simp [quad32_bit, hi])
    · congr 1
      simp [show ¬ 24 + i < 8 by omega, show ¬ 24 + i < 16 by omega]
    · congr 1
      simp [show ¬ 16 + i < 8 by omega, show 16 + i < 24 by omega]
    · congr 1
      simp [show 8 + i < 16 by omega]
  · rintro ⟨h1, h2, h3, h4⟩
    apply BitVec.eq_of_getLsbD_eq
    intro i hi
    rw [BitVec.getLsbD_and, quad32_bit]
    split
    · next h =>
      have e := congrArg (fun v => v.getLsbD i) h4
      simpa [h] using e
    · split
      · have e := congrArg (fun v => v.getLsbD (i - 8)) h3
        simpa [show i - 8 < 8 by omega, show 8 + (i - 8) = i by omega] using e
      · split
        · have e := congrArg (fun v => v.getLsbD (i - 16)) h2
          simpa [show i - 16 < 8 by omega, show 16 + (i - 16) = i by omega] using e
        · have e := congrArg (fun v => v.getLsbD (i - 24)) h1
          simpa [show i - 24 < 8 by omega, show 24 + (i - 24) = i by omega] using e

theorem byte_and_fe_eq_zero (f : Byte) : f &&& 0xFE#8 = 0#8 ↔ (f = 0 ∨ f = 1) := by
  revert f; decide

theorem byte_and_ff (b : Byte) : b &&& 0xFF#8 = b := by revert b; decide

theorem byte_and_zero (b : Byte) : b &&& 0#8 = 0#8 := by revert b; decide

theorem half_bytes_eq (v w : Half) : (hi8 v = hi8 w ∧ lo8 v = lo8 w) ↔ v = w := by
  constructor
  · rintro ⟨h1, h2⟩
    rw [← pair16_hi8_lo8 v, h1, h2, pair16_hi8_lo8]
  · rintro rfl
    exact ⟨rfl, rfl⟩

/-- The operation of a header by its fields: the table of R109 read row by row. -/
theorem opOfHeader_fields (op flags : Byte) (len : Half) :
    opOfHeader (quad32 op flags (hi8 len) (lo8 len)) =
      if op = 1 ∧ flags = 0 then some .fecEncode
      else if op = 2 ∧ flags = 0 then some .crc16
      else if op = 3 ∧ (flags = 0 ∨ flags = 1) then some .frame
      else if op = 0x10 ∧ flags = 0 then some .rxBytes
      else if op = 0x11 ∧ flags = 0 then some .rxSlice
      else if op = 0x20 ∧ flags = 0 ∧ len = 0 then some .reset
      else if op = 0x21 ∧ flags = 0 ∧ len = 3 then some .setConfig
      else if op = 0x22 ∧ flags = 0 ∧ len = 0 then some .getStatus
      else none := by
  have len0 : (hi8 len = 0#8 ∧ lo8 len = 0#8) ↔ len = 0 := half_bytes_eq len 0
  have len3 : (hi8 len = 0#8 ∧ lo8 len = 3#8) ↔ len = 3 := half_bytes_eq len 3
  simp only [opOfHeader, cmdTable, List.find?, CmdRow.matches, Bool.beq_eq_decide_eq,
    quad32_and_eq_iff]
  simp only [BitVec.reduceExtractLsb', BitVec.ofNat_eq_ofNat, byte_and_ff, byte_and_zero,
    byte_and_fe_eq_zero, len0, len3, and_true]
  by_cases h0 : op = 1#8 ∧ flags = 0#8
  · rw [decide_eq_true h0, if_pos h0]; rfl
  rw [decide_eq_false h0, if_neg h0]
  by_cases h1 : op = 2#8 ∧ flags = 0#8
  · rw [decide_eq_true h1, if_pos h1]; rfl
  rw [decide_eq_false h1, if_neg h1]
  by_cases h2 : op = 3#8 ∧ (flags = 0#8 ∨ flags = 1#8)
  · rw [decide_eq_true h2, if_pos h2]; rfl
  rw [decide_eq_false h2, if_neg h2]
  by_cases h3 : op = 0x10#8 ∧ flags = 0#8
  · rw [decide_eq_true h3, if_pos h3]; rfl
  rw [decide_eq_false h3, if_neg h3]
  by_cases h4 : op = 0x11#8 ∧ flags = 0#8
  · rw [decide_eq_true h4, if_pos h4]; rfl
  rw [decide_eq_false h4, if_neg h4]
  by_cases h5 : op = 0x20#8 ∧ flags = 0#8 ∧ len = 0#16
  · rw [decide_eq_true h5, if_pos h5]; rfl
  rw [decide_eq_false h5, if_neg h5]
  by_cases h6 : op = 0x21#8 ∧ flags = 0#8 ∧ len = 3#16
  · rw [decide_eq_true h6, if_pos h6]; rfl
  rw [decide_eq_false h6, if_neg h6]
  by_cases h7 : op = 0x22#8 ∧ flags = 0#8 ∧ len = 0#16
  · rw [decide_eq_true h7, if_pos h7]; rfl
  rw [decide_eq_false h7, if_neg h7]
  rfl

/-- A command written whole is taken whole, and the bytes after it are left (R108, R260). -/
theorem takeCommand_whole (op flags : Byte) (len : Half) (data tail : Bytes)
    (h : data.length = len.toNat) :
    takeCommand ([op, flags, hi8 len, lo8 len] ++ data ++ tail) =
      some ⟨quad32 op flags (hi8 len) (lo8 len), data, tail⟩ := by
  simp [takeCommand, hasAtLeast_iff, ← h]

/-- A command whose data bytes are not all there is not taken. -/
theorem takeCommand_partial (op flags : Byte) (len : Half) (data : Bytes)
    (h : data.length < len.toNat) :
    takeCommand ([op, flags, hi8 len, lo8 len] ++ data) = none := by
  simp [takeCommand, hasAtLeast_iff]
  omega

/-- What taking a command says of the bytes: header, as many data bytes as it says, the rest. -/
theorem takeCommand_some (bytes : Bytes) (c : TakenCommand) (h : takeCommand bytes = some c) :
    ∃ b0 b1 b2 b3, bytes = [b0, b1, b2, b3] ++ c.data ++ c.after ∧
      c.header = quad32 b0 b1 b2 b3 ∧ c.data.length = (headerLen c.header).toNat := by
  rcases bytes with _ | ⟨b0, _ | ⟨b1, _ | ⟨b2, _ | ⟨b3, tail⟩⟩⟩⟩ <;>
    simp only [takeCommand, reduceCtorEq] at h
  split at h
  · next hl =>
    cases h
    rw [hasAtLeast_iff] at hl
    exact ⟨b0, b1, b2, b3, by simp, rfl, by simp [hl]⟩
  · cases h

/-- An encoded command is taken whole. -/
theorem takeCommand_cmdBytes (op flags : Byte) (data tail : Bytes) (h : data.length < 65536) :
    takeCommand (cmdBytes op flags data ++ tail) =
      some ⟨quad32 op flags (hi8 (BitVec.ofNat 16 data.length)) (lo8 (BitVec.ofNat 16 data.length)),
        data, tail⟩ := by
  refine takeCommand_whole op flags (BitVec.ofNat 16 data.length) data tail ?_
  simp only [BitVec.toNat_ofNat]
  omega

/-- No two rows of R109 match one header. -/
theorem cmdTable_rows_are_disjoint (h : Word) :
    cmdTable.Pairwise fun r s => ¬ (r.matches h = true ∧ s.matches h = true) := by
  have key : cmdTable.Pairwise fun r s => r.mask &&& s.mask &&& r.pattern ≠
      r.mask &&& s.mask &&& s.pattern := by decide
  refine key.imp ?_
  rintro r s hne ⟨h1, h2⟩
  simp only [CmdRow.matches, beq_iff_eq] at h1 h2
  apply hne
  rw [← h1, ← h2]
  apply BitVec.eq_of_getLsbD_eq
  intro i hi
  simp only [BitVec.getLsbD_and]
  cases r.mask.getLsbD i <;> cases s.mask.getLsbD i <;> cases h.getLsbD i <;> rfl

/-- The 249 reserved type codes (R99). -/
theorem packetTypeOf_eq_none_iff (b : Byte) :
    packetTypeOf b = none ↔
      ¬ (b = 0x00 ∨ b = 0x01 ∨ b = 0x02 ∨ b = 0x03 ∨ b = 0x54 ∨ b = 0x55 ∨ b = 0x56) := by
  revert b; decide +kernel

/-- A type code selects its packet type and no other byte does (R98). -/
theorem packetTypeOf_eq_some_iff (b : Byte) (t : PacketType) :
    packetTypeOf b = some t ↔ b = t.code := by
  cases t <;> revert b <;> decide +kernel

@[simp] theorem gpsFieldsOf_gpsSlice (g : GpsFields) (rest : Bytes) :
    gpsFieldsOf (gpsSlice g rest) = g := by
  rcases g
  simp [gpsFieldsOf, gpsSlice, be16, be32, byteAt, be16Bytes, be32Bytes]

@[simp] theorem ssdvHeaderOf_ssdvSlice (h : SsdvHeader) (rest : Bytes) :
    ssdvHeaderOf (ssdvSlice h rest) = h := by
  rcases h
  simp [ssdvHeaderOf, ssdvSlice, be16, be32, byteAt, be16Bytes, be32Bytes]

theorem textSlice_length (l : Byte) (q : Half) (rest : Bytes) :
    (textSlice l q rest).length = rest.length + 4 := by simp [textSlice]; omega

theorem gpsSlice_length (g : GpsFields) (rest : Bytes) :
    (gpsSlice g rest).length = rest.length + 35 := by simp [gpsSlice]; omega

theorem orientSlice_length (w : Half) (t : Word) (l : Byte) (rest : Bytes) :
    (orientSlice w t l rest).length = rest.length + 8 := by simp [orientSlice]; omega

theorem secplSlice_length (i : Byte) (data : Bytes) :
    (secplSlice i data).length = data.length + 2 := by simp [secplSlice]

theorem imgtlmSlice_length (rest : Bytes) : (imgtlmSlice rest).length = rest.length + 1 := by
  simp [imgtlmSlice]

theorem ssdvSlice_length (h : SsdvHeader) (rest : Bytes) :
    (ssdvSlice h rest).length = rest.length + 11 := by simp [ssdvSlice]; omega

theorem idleSlice_length (rest : Bytes) : (idleSlice rest).length = rest.length + 1 := by
  simp [idleSlice]

theorem frameBytes_length (preamble payload : Bytes) (checksum : Half) (parity : Bytes) :
    (frameBytes preamble payload checksum parity).length =
      preamble.length + payload.length + parity.length + 6 := by
  simp [frameBytes, Config.uniqueWord]; omega

/-- A frame's fields read back (R72, R118). -/
theorem frameBytes_fields (preamble payload : Bytes) (checksum : Half) (parity : Bytes)
    (h1 : preamble.length = 16) (h2 : payload.length = 256) (h3 : parity.length ≤ 65) :
    memRead (frameBytes preamble payload checksum parity) 0 16 = preamble ∧
    memRead (frameBytes preamble payload checksum parity) 16 4 = Config.uniqueWord ∧
    memRead (frameBytes preamble payload checksum parity) 20 256 = payload ∧
    le16 (frameBytes preamble payload checksum parity) 276 = checksum ∧
    memRead (frameBytes preamble payload checksum parity) 278 65 = parity := by
  refine ⟨?_, ?_, ?_, ?_, ?_⟩
  · simp [frameBytes, memRead, ← h1]
  · simp [frameBytes, memRead, ← h1]
  · simp [frameBytes, memRead, List.drop_append, h1, ← h2,
      List.drop_eq_nil_of_le (show preamble.length ≤ 20 by omega)]
  · simp [frameBytes, le16, byteAt, List.getElem?_append, h1, h2, le16Bytes]
  · simp [frameBytes, memRead, List.drop_append, h1, h2, h3, le16Bytes,
      List.drop_eq_nil_of_le (show preamble.length ≤ 278 by omega),
      List.drop_eq_nil_of_le (show payload.length ≤ 258 by omega)]

end Sys2Proof
end

