-- ==== Sys2Proof/Laws/State.lean ====
section
/-! SUPPORT. One lemma for each field and each named update of the state, so that no later proof
unfolds an update. -/

namespace Sys2Proof.Machine

section updates
variable (s : State)

@[simp] theorem State.emit_cfg (r : Record) :
    (s.emit r).cfg = s.cfg := rfl
@[simp] theorem State.emit_ncad (r : Record) :
    (s.emit r).ncad = s.ncad := rfl
@[simp] theorem State.emit_esticky (r : Record) :
    (s.emit r).esticky = s.esticky := rfl
@[simp] theorem State.emit_elast (r : Record) :
    (s.emit r).elast = s.elast := rfl
@[simp] theorem State.emit_rxfState (r : Record) :
    (s.emit r).rxfState = s.rxfState := rfl
@[simp] theorem State.emit_rxfWin (r : Record) :
    (s.emit r).rxfWin = s.rxfWin := rfl
@[simp] theorem State.emit_rxfCnt (r : Record) :
    (s.emit r).rxfCnt = s.rxfCnt := rfl
@[simp] theorem State.emit_rxfLen (r : Record) :
    (s.emit r).rxfLen = s.rxfLen := rfl
@[simp] theorem State.emit_rxfBuf (r : Record) :
    (s.emit r).rxfBuf = s.rxfBuf := rfl
@[simp] theorem State.emit_rsm (r : Record) :
    (s.emit r).rsm = s.rsm := rfl
@[simp] theorem State.emit_tx (r : Record) :
    (s.emit r).tx = s.tx := rfl
@[simp] theorem State.emit_out (r : Record) :
    (s.emit r).out = s.out ++ [r] := rfl
@[simp] theorem State.emit_port (r : Record) :
    (s.emit r).port = s.port := rfl

@[simp] theorem State.raise_cfg (e : BlockError) :
    (s.raise e).cfg = s.cfg := rfl
@[simp] theorem State.raise_ncad (e : BlockError) :
    (s.raise e).ncad = s.ncad := rfl
@[simp] theorem State.raise_esticky (e : BlockError) :
    (s.raise e).esticky = stickyAfter s.esticky e := rfl
@[simp] theorem State.raise_elast (e : BlockError) :
    (s.raise e).elast = e.code := rfl
@[simp] theorem State.raise_rxfState (e : BlockError) :
    (s.raise e).rxfState = s.rxfState := rfl
@[simp] theorem State.raise_rxfWin (e : BlockError) :
    (s.raise e).rxfWin = s.rxfWin := rfl
@[simp] theorem State.raise_rxfCnt (e : BlockError) :
    (s.raise e).rxfCnt = s.rxfCnt := rfl
@[simp] theorem State.raise_rxfLen (e : BlockError) :
    (s.raise e).rxfLen = s.rxfLen := rfl
@[simp] theorem State.raise_rxfBuf (e : BlockError) :
    (s.raise e).rxfBuf = s.rxfBuf := rfl
@[simp] theorem State.raise_rsm (e : BlockError) :
    (s.raise e).rsm = s.rsm := rfl
@[simp] theorem State.raise_tx (e : BlockError) :
    (s.raise e).tx = s.tx := rfl
@[simp] theorem State.raise_out (e : BlockError) :
    (s.raise e).out = s.out ++ [e.record] := rfl
@[simp] theorem State.raise_port (e : BlockError) :
    (s.raise e).port = s.port := rfl

@[simp] theorem State.withTx_cfg (t : TxRegs) :
    (s.withTx t).cfg = s.cfg := rfl
@[simp] theorem State.withTx_ncad (t : TxRegs) :
    (s.withTx t).ncad = s.ncad := rfl
@[simp] theorem State.withTx_esticky (t : TxRegs) :
    (s.withTx t).esticky = s.esticky := rfl
@[simp] theorem State.withTx_elast (t : TxRegs) :
    (s.withTx t).elast = s.elast := rfl
@[simp] theorem State.withTx_rxfState (t : TxRegs) :
    (s.withTx t).rxfState = s.rxfState := rfl
@[simp] theorem State.withTx_rxfWin (t : TxRegs) :
    (s.withTx t).rxfWin = s.rxfWin := rfl
@[simp] theorem State.withTx_rxfCnt (t : TxRegs) :
    (s.withTx t).rxfCnt = s.rxfCnt := rfl
@[simp] theorem State.withTx_rxfLen (t : TxRegs) :
    (s.withTx t).rxfLen = s.rxfLen := rfl
@[simp] theorem State.withTx_rxfBuf (t : TxRegs) :
    (s.withTx t).rxfBuf = s.rxfBuf := rfl
@[simp] theorem State.withTx_rsm (t : TxRegs) :
    (s.withTx t).rsm = s.rsm := rfl
@[simp] theorem State.withTx_tx (t : TxRegs) :
    (s.withTx t).tx = t := rfl
@[simp] theorem State.withTx_out (t : TxRegs) :
    (s.withTx t).out = s.out := rfl
@[simp] theorem State.withTx_port (t : TxRegs) :
    (s.withTx t).port = s.port := rfl

@[simp] theorem State.withRsm_cfg (r : Rsm) :
    (s.withRsm r).cfg = s.cfg := rfl
@[simp] theorem State.withRsm_ncad (r : Rsm) :
    (s.withRsm r).ncad = s.ncad := rfl
@[simp] theorem State.withRsm_esticky (r : Rsm) :
    (s.withRsm r).esticky = s.esticky := rfl
@[simp] theorem State.withRsm_elast (r : Rsm) :
    (s.withRsm r).elast = s.elast := rfl
@[simp] theorem State.withRsm_rxfState (r : Rsm) :
    (s.withRsm r).rxfState = s.rxfState := rfl
@[simp] theorem State.withRsm_rxfWin (r : Rsm) :
    (s.withRsm r).rxfWin = s.rxfWin := rfl
@[simp] theorem State.withRsm_rxfCnt (r : Rsm) :
    (s.withRsm r).rxfCnt = s.rxfCnt := rfl
@[simp] theorem State.withRsm_rxfLen (r : Rsm) :
    (s.withRsm r).rxfLen = s.rxfLen := rfl
@[simp] theorem State.withRsm_rxfBuf (r : Rsm) :
    (s.withRsm r).rxfBuf = s.rxfBuf := rfl
@[simp] theorem State.withRsm_rsm (r : Rsm) :
    (s.withRsm r).rsm = r := rfl
@[simp] theorem State.withRsm_tx (r : Rsm) :
    (s.withRsm r).tx = s.tx := rfl
@[simp] theorem State.withRsm_out (r : Rsm) :
    (s.withRsm r).out = s.out := rfl
@[simp] theorem State.withRsm_port (r : Rsm) :
    (s.withRsm r).port = s.port := rfl

@[simp] theorem State.withPort_cfg (p : List Offer) :
    (s.withPort p).cfg = s.cfg := rfl
@[simp] theorem State.withPort_ncad (p : List Offer) :
    (s.withPort p).ncad = s.ncad := rfl
@[simp] theorem State.withPort_esticky (p : List Offer) :
    (s.withPort p).esticky = s.esticky := rfl
@[simp] theorem State.withPort_elast (p : List Offer) :
    (s.withPort p).elast = s.elast := rfl
@[simp] theorem State.withPort_rxfState (p : List Offer) :
    (s.withPort p).rxfState = s.rxfState := rfl
@[simp] theorem State.withPort_rxfWin (p : List Offer) :
    (s.withPort p).rxfWin = s.rxfWin := rfl
@[simp] theorem State.withPort_rxfCnt (p : List Offer) :
    (s.withPort p).rxfCnt = s.rxfCnt := rfl
@[simp] theorem State.withPort_rxfLen (p : List Offer) :
    (s.withPort p).rxfLen = s.rxfLen := rfl
@[simp] theorem State.withPort_rxfBuf (p : List Offer) :
    (s.withPort p).rxfBuf = s.rxfBuf := rfl
@[simp] theorem State.withPort_rsm (p : List Offer) :
    (s.withPort p).rsm = s.rsm := rfl
@[simp] theorem State.withPort_tx (p : List Offer) :
    (s.withPort p).tx = s.tx := rfl
@[simp] theorem State.withPort_out (p : List Offer) :
    (s.withPort p).out = s.out := rfl
@[simp] theorem State.withPort_port (p : List Offer) :
    (s.withPort p).port = p := rfl

@[simp] theorem uwMatch_cfg :
    (uwMatch s).cfg = s.cfg := rfl
@[simp] theorem uwMatch_ncad :
    (uwMatch s).ncad = s.ncad := rfl
@[simp] theorem uwMatch_esticky :
    (uwMatch s).esticky = s.esticky := rfl
@[simp] theorem uwMatch_elast :
    (uwMatch s).elast = s.elast := rfl
@[simp] theorem uwMatch_rxfState :
    (uwMatch s).rxfState = .capture := rfl
@[simp] theorem uwMatch_rxfWin :
    (uwMatch s).rxfWin = s.rxfWin := rfl
@[simp] theorem uwMatch_rxfCnt :
    (uwMatch s).rxfCnt = 0 := rfl
@[simp] theorem uwMatch_rxfLen :
    (uwMatch s).rxfLen = captureLen s.cfg := rfl
@[simp] theorem uwMatch_rxfBuf :
    (uwMatch s).rxfBuf = s.rxfBuf := rfl
@[simp] theorem uwMatch_rsm :
    (uwMatch s).rsm = s.rsm := rfl
@[simp] theorem uwMatch_tx :
    (uwMatch s).tx = s.tx := rfl
@[simp] theorem uwMatch_out :
    (uwMatch s).out = s.out := rfl
@[simp] theorem uwMatch_port :
    (uwMatch s).port = s.port := rfl

@[simp] theorem returnToHunt_cfg :
    (returnToHunt s).cfg = s.cfg := rfl
@[simp] theorem returnToHunt_ncad :
    (returnToHunt s).ncad = s.ncad := rfl
@[simp] theorem returnToHunt_esticky :
    (returnToHunt s).esticky = s.esticky := rfl
@[simp] theorem returnToHunt_elast :
    (returnToHunt s).elast = s.elast := rfl
@[simp] theorem returnToHunt_rxfState :
    (returnToHunt s).rxfState = .hunt := rfl
@[simp] theorem returnToHunt_rxfWin :
    (returnToHunt s).rxfWin = 0 := rfl
@[simp] theorem returnToHunt_rxfCnt :
    (returnToHunt s).rxfCnt = 0 := rfl
@[simp] theorem returnToHunt_rxfLen :
    (returnToHunt s).rxfLen = s.rxfLen := rfl
@[simp] theorem returnToHunt_rxfBuf :
    (returnToHunt s).rxfBuf = s.rxfBuf := rfl
@[simp] theorem returnToHunt_rsm :
    (returnToHunt s).rsm = s.rsm := rfl
@[simp] theorem returnToHunt_tx :
    (returnToHunt s).tx = s.tx := rfl
@[simp] theorem returnToHunt_out :
    (returnToHunt s).out = s.out := rfl
@[simp] theorem returnToHunt_port :
    (returnToHunt s).port = s.port := rfl

@[simp] theorem storeByte_cfg (b : Byte) :
    (storeByte b s).cfg = s.cfg := rfl
@[simp] theorem storeByte_ncad (b : Byte) :
    (storeByte b s).ncad = s.ncad := rfl
@[simp] theorem storeByte_esticky (b : Byte) :
    (storeByte b s).esticky = s.esticky := rfl
@[simp] theorem storeByte_elast (b : Byte) :
    (storeByte b s).elast = s.elast := rfl
@[simp] theorem storeByte_rxfState (b : Byte) :
    (storeByte b s).rxfState = s.rxfState := rfl
@[simp] theorem storeByte_rxfWin (b : Byte) :
    (storeByte b s).rxfWin = s.rxfWin := rfl
@[simp] theorem storeByte_rxfCnt (b : Byte) :
    (storeByte b s).rxfCnt = s.rxfCnt + 1 := rfl
@[simp] theorem storeByte_rxfLen (b : Byte) :
    (storeByte b s).rxfLen = s.rxfLen := rfl
@[simp] theorem storeByte_rxfBuf (b : Byte) :
    (storeByte b s).rxfBuf = memWrite s.rxfBuf s.rxfCnt.toNat [b] := rfl
@[simp] theorem storeByte_rsm (b : Byte) :
    (storeByte b s).rsm = s.rsm := rfl
@[simp] theorem storeByte_tx (b : Byte) :
    (storeByte b s).tx = s.tx := rfl
@[simp] theorem storeByte_out (b : Byte) :
    (storeByte b s).out = s.out := rfl
@[simp] theorem storeByte_port (b : Byte) :
    (storeByte b s).port = s.port := rfl

@[simp] theorem resetRegisters_cfg :
    (resetRegisters s).cfg = 1 := rfl
@[simp] theorem resetRegisters_ncad :
    (resetRegisters s).ncad = 0 := rfl
@[simp] theorem resetRegisters_esticky :
    (resetRegisters s).esticky = 0 := rfl
@[simp] theorem resetRegisters_elast :
    (resetRegisters s).elast = 0 := rfl
@[simp] theorem resetRegisters_rxfState :
    (resetRegisters s).rxfState = .hunt := rfl
@[simp] theorem resetRegisters_rxfWin :
    (resetRegisters s).rxfWin = 0 := rfl
@[simp] theorem resetRegisters_rxfCnt :
    (resetRegisters s).rxfCnt = 0 := rfl
@[simp] theorem resetRegisters_rxfLen :
    (resetRegisters s).rxfLen = 0 := rfl
@[simp] theorem resetRegisters_rxfBuf :
    (resetRegisters s).rxfBuf = s.rxfBuf := rfl
@[simp] theorem resetRegisters_rsm :
    (resetRegisters s).rsm = .noImage := rfl
@[simp] theorem resetRegisters_tx :
    (resetRegisters s).tx = s.tx := rfl
@[simp] theorem resetRegisters_out :
    (resetRegisters s).out = s.out := rfl
@[simp] theorem resetRegisters_port :
    (resetRegisters s).port = s.port := rfl

@[simp] theorem awaitFrame_cfg (fec : Bool) :
    (awaitFrame fec s).cfg = if fec then 1 else 0 := rfl
@[simp] theorem awaitFrame_ncad (fec : Bool) :
    (awaitFrame fec s).ncad = s.ncad := rfl
@[simp] theorem awaitFrame_esticky (fec : Bool) :
    (awaitFrame fec s).esticky = s.esticky := rfl
@[simp] theorem awaitFrame_elast (fec : Bool) :
    (awaitFrame fec s).elast = s.elast := rfl
@[simp] theorem awaitFrame_rxfState (fec : Bool) :
    (awaitFrame fec s).rxfState = .hunt := rfl
@[simp] theorem awaitFrame_rxfWin (fec : Bool) :
    (awaitFrame fec s).rxfWin = 0 := rfl
@[simp] theorem awaitFrame_rxfCnt (fec : Bool) :
    (awaitFrame fec s).rxfCnt = 0 := rfl
@[simp] theorem awaitFrame_rxfLen (fec : Bool) :
    (awaitFrame fec s).rxfLen = s.rxfLen := rfl
@[simp] theorem awaitFrame_rxfBuf (fec : Bool) :
    (awaitFrame fec s).rxfBuf = s.rxfBuf := rfl
@[simp] theorem awaitFrame_rsm (fec : Bool) :
    (awaitFrame fec s).rsm = s.rsm := rfl
@[simp] theorem awaitFrame_tx (fec : Bool) :
    (awaitFrame fec s).tx = s.tx := rfl
@[simp] theorem awaitFrame_out (fec : Bool) :
    (awaitFrame fec s).out = s.out := rfl
@[simp] theorem awaitFrame_port (fec : Bool) :
    (awaitFrame fec s).port = s.port := rfl

@[simp] theorem offerFirst_cfg (now : TimeStamp) (bytes : Bytes) :
    (offerFirst now bytes s).cfg = s.cfg := rfl
@[simp] theorem offerFirst_ncad (now : TimeStamp) (bytes : Bytes) :
    (offerFirst now bytes s).ncad = s.ncad := rfl
@[simp] theorem offerFirst_esticky (now : TimeStamp) (bytes : Bytes) :
    (offerFirst now bytes s).esticky = s.esticky := rfl
@[simp] theorem offerFirst_elast (now : TimeStamp) (bytes : Bytes) :
    (offerFirst now bytes s).elast = s.elast := rfl
@[simp] theorem offerFirst_rxfState (now : TimeStamp) (bytes : Bytes) :
    (offerFirst now bytes s).rxfState = s.rxfState := rfl
@[simp] theorem offerFirst_rxfWin (now : TimeStamp) (bytes : Bytes) :
    (offerFirst now bytes s).rxfWin = s.rxfWin := rfl
@[simp] theorem offerFirst_rxfCnt (now : TimeStamp) (bytes : Bytes) :
    (offerFirst now bytes s).rxfCnt = s.rxfCnt := rfl
@[simp] theorem offerFirst_rxfLen (now : TimeStamp) (bytes : Bytes) :
    (offerFirst now bytes s).rxfLen = s.rxfLen := rfl
@[simp] theorem offerFirst_rxfBuf (now : TimeStamp) (bytes : Bytes) :
    (offerFirst now bytes s).rxfBuf = s.rxfBuf := rfl
@[simp] theorem offerFirst_rsm (now : TimeStamp) (bytes : Bytes) :
    (offerFirst now bytes s).rsm = s.rsm := rfl
@[simp] theorem offerFirst_tx (now : TimeStamp) (bytes : Bytes) :
    (offerFirst now bytes s).tx = s.tx := rfl
@[simp] theorem offerFirst_out (now : TimeStamp) (bytes : Bytes) :
    (offerFirst now bytes s).out = s.out := rfl
@[simp] theorem offerFirst_port (now : TimeStamp) (bytes : Bytes) :
    (offerFirst now bytes s).port = ⟨now, bytes⟩ :: s.port := rfl

end updates

section registers
variable (t : TxRegs)

@[simp] theorem TxRegs.loadInfo_info (data : Bytes) : (t.loadInfo data).info = data := by
  simp only [TxRegs.loadInfo]
@[simp] theorem TxRegs.loadInfo_pbuf (data : Bytes) : (t.loadInfo data).pbuf = t.pbuf := by
  simp only [TxRegs.loadInfo]
@[simp] theorem TxRegs.loadInfo_crcr (data : Bytes) : (t.loadInfo data).crcr = t.crcr := by
  simp only [TxRegs.loadInfo]
@[simp] theorem TxRegs.loadInfo_pbits (data : Bytes) : (t.loadInfo data).pbits = t.pbits := by
  simp only [TxRegs.loadInfo]
@[simp] theorem TxRegs.loadInfo_parb (data : Bytes) : (t.loadInfo data).parb = t.parb := by
  simp only [TxRegs.loadInfo]
@[simp] theorem TxRegs.loadInfo_fbuf (data : Bytes) : (t.loadInfo data).fbuf = t.fbuf := by
  simp only [TxRegs.loadInfo]
@[simp] theorem TxRegs.bitUnpack_ibits :
    t.bitUnpack.ibits = (List.range Config.infoBits).map (streamBit t.info) := by
  simp only [TxRegs.bitUnpack]
@[simp] theorem TxRegs.bitUnpack_info : t.bitUnpack.info = t.info := by
  simp only [TxRegs.bitUnpack]
@[simp] theorem TxRegs.bitUnpack_pbuf : t.bitUnpack.pbuf = t.pbuf := by
  simp only [TxRegs.bitUnpack]
@[simp] theorem TxRegs.bitUnpack_crcr : t.bitUnpack.crcr = t.crcr := by
  simp only [TxRegs.bitUnpack]
@[simp] theorem TxRegs.bitUnpack_pbits : t.bitUnpack.pbits = t.pbits := by
  simp only [TxRegs.bitUnpack]
@[simp] theorem TxRegs.bitUnpack_parb : t.bitUnpack.parb = t.parb := by
  simp only [TxRegs.bitUnpack]
@[simp] theorem TxRegs.bitUnpack_fbuf : t.bitUnpack.fbuf = t.fbuf := by
  simp only [TxRegs.bitUnpack]
@[simp] theorem TxRegs.bitPack_info : t.bitPack.info = t.info := by
  simp only [TxRegs.bitPack]
@[simp] theorem TxRegs.bitPack_ibits : t.bitPack.ibits = t.ibits := by
  simp only [TxRegs.bitPack]
@[simp] theorem TxRegs.bitPack_pbuf : t.bitPack.pbuf = t.pbuf := by
  simp only [TxRegs.bitPack]
@[simp] theorem TxRegs.bitPack_crcr : t.bitPack.crcr = t.crcr := by
  simp only [TxRegs.bitPack]
@[simp] theorem TxRegs.bitPack_pbits : t.bitPack.pbits = t.pbits := by
  simp only [TxRegs.bitPack]
@[simp] theorem TxRegs.bitPack_prev : t.bitPack.prev = t.prev := by
  simp only [TxRegs.bitPack]
@[simp] theorem TxRegs.bitPack_pidx : t.bitPack.pidx = t.pidx := by
  simp only [TxRegs.bitPack]
@[simp] theorem TxRegs.bitPack_fbuf : t.bitPack.fbuf = t.fbuf := by
  simp only [TxRegs.bitPack]
@[simp] theorem TxRegs.padTrunc_pbuf (data : Bytes) :
    (t.padTrunc data).pbuf = padTruncBytes data := by
  simp only [TxRegs.padTrunc]
@[simp] theorem TxRegs.padTrunc_fbuf (data : Bytes) : (t.padTrunc data).fbuf = t.fbuf := by
  simp only [TxRegs.padTrunc]
@[simp] theorem TxRegs.checksum_pbuf : t.checksum.pbuf = t.pbuf := by
  simp only [TxRegs.checksum]
@[simp] theorem TxRegs.checksum_crcr : t.checksum.crcr = crc16 t.pbuf := by
  simp only [TxRegs.checksum]
@[simp] theorem TxRegs.checksum_fbuf : t.checksum.fbuf = t.fbuf := by
  simp only [TxRegs.checksum]
@[simp] theorem TxRegs.assemble0_fbuf :
    t.assemble0.fbuf = memWrite t.fbuf 0 (frameBytes framePreamble t.pbuf t.crcr []) := by
  simp only [TxRegs.assemble0]

end registers

section context
variable (ctx : Context) (slice : Bytes)

@[simp] theorem Context.append_curId : (ctx.append slice).curId = ctx.curId := rfl
@[simp] theorem Context.append_curCode : (ctx.append slice).curCode = ctx.curCode := rfl
@[simp] theorem Context.append_pktCount : (ctx.append slice).pktCount = ctx.pktCount + 1 := rfl
@[simp] theorem Context.append_ctxTs : (ctx.append slice).ctxTs = ctx.ctxTs := rfl
@[simp] theorem Context.append_ibuf :
    (ctx.append slice).ibuf = memWrite ctx.ibuf (256 * ctx.pktCount) slice := rfl

end context

end Sys2Proof.Machine
end

