-- ==== Sys2Proof/Laws/Frames.lean ====
section
/-! SUPPORT. What each shared operation can do, said once: the fields it never changes (its frame), and
its cases. Later proofs cite these lemmas and unfold no operation. -/

namespace Sys2Proof.Machine

section frames
variable (s : State)

/-! #### `previewTest` -/

@[simp] theorem previewTest_cfg (ctx : Context) :
    (previewTest ctx s).cfg = s.cfg := by
  unfold previewTest; split <;> simp
@[simp] theorem previewTest_ncad (ctx : Context) :
    (previewTest ctx s).ncad = s.ncad := by
  unfold previewTest; split <;> simp
@[simp] theorem previewTest_rxfState (ctx : Context) :
    (previewTest ctx s).rxfState = s.rxfState := by
  unfold previewTest; split <;> simp
@[simp] theorem previewTest_rxfWin (ctx : Context) :
    (previewTest ctx s).rxfWin = s.rxfWin := by
  unfold previewTest; split <;> simp
@[simp] theorem previewTest_rxfCnt (ctx : Context) :
    (previewTest ctx s).rxfCnt = s.rxfCnt := by
  unfold previewTest; split <;> simp
@[simp] theorem previewTest_rxfLen (ctx : Context) :
    (previewTest ctx s).rxfLen = s.rxfLen := by
  unfold previewTest; split <;> simp
@[simp] theorem previewTest_rxfBuf (ctx : Context) :
    (previewTest ctx s).rxfBuf = s.rxfBuf := by
  unfold previewTest; split <;> simp
@[simp] theorem previewTest_tx (ctx : Context) :
    (previewTest ctx s).tx = s.tx := by
  unfold previewTest; split <;> simp
@[simp] theorem previewTest_port (ctx : Context) :
    (previewTest ctx s).port = s.port := by
  unfold previewTest; split <;> simp
@[simp] theorem previewTest_esticky (ctx : Context) :
    (previewTest ctx s).esticky = s.esticky := by
  unfold previewTest; split <;> simp
@[simp] theorem previewTest_elast (ctx : Context) :
    (previewTest ctx s).elast = s.elast := by
  unfold previewTest; split <;> simp
@[simp] theorem previewTest_rsm (ctx : Context) :
    (previewTest ctx s).rsm = s.rsm := by
  unfold previewTest; split <;> simp

/-! #### `finalize` -/

@[simp] theorem finalize_cfg :
    (finalize s).cfg = s.cfg := by
  unfold finalize; split <;> simp
@[simp] theorem finalize_ncad :
    (finalize s).ncad = s.ncad := by
  unfold finalize; split <;> simp
@[simp] theorem finalize_rxfState :
    (finalize s).rxfState = s.rxfState := by
  unfold finalize; split <;> simp
@[simp] theorem finalize_rxfWin :
    (finalize s).rxfWin = s.rxfWin := by
  unfold finalize; split <;> simp
@[simp] theorem finalize_rxfCnt :
    (finalize s).rxfCnt = s.rxfCnt := by
  unfold finalize; split <;> simp
@[simp] theorem finalize_rxfLen :
    (finalize s).rxfLen = s.rxfLen := by
  unfold finalize; split <;> simp
@[simp] theorem finalize_rxfBuf :
    (finalize s).rxfBuf = s.rxfBuf := by
  unfold finalize; split <;> simp
@[simp] theorem finalize_tx :
    (finalize s).tx = s.tx := by
  unfold finalize; split <;> simp
@[simp] theorem finalize_port :
    (finalize s).port = s.port := by
  unfold finalize; split <;> simp
@[simp] theorem finalize_esticky :
    (finalize s).esticky = s.esticky := by
  unfold finalize; split <;> simp
@[simp] theorem finalize_elast :
    (finalize s).elast = s.elast := by
  unfold finalize; split <;> simp
@[simp] theorem finalize_rsm :
    (finalize s).rsm = s.rsm := by
  unfold finalize; split <;> simp

/-! #### `boundary` -/

@[simp] theorem boundary_cfg (now : TimeStamp) (id : Byte) (code : Word) (slice : Bytes) :
    (boundary now id code slice s).cfg = s.cfg := by
  simp [boundary]
@[simp] theorem boundary_ncad (now : TimeStamp) (id : Byte) (code : Word) (slice : Bytes) :
    (boundary now id code slice s).ncad = s.ncad := by
  simp [boundary]
@[simp] theorem boundary_rxfState (now : TimeStamp) (id : Byte) (code : Word) (slice : Bytes) :
    (boundary now id code slice s).rxfState = s.rxfState := by
  simp [boundary]
@[simp] theorem boundary_rxfWin (now : TimeStamp) (id : Byte) (code : Word) (slice : Bytes) :
    (boundary now id code slice s).rxfWin = s.rxfWin := by
  simp [boundary]
@[simp] theorem boundary_rxfCnt (now : TimeStamp) (id : Byte) (code : Word) (slice : Bytes) :
    (boundary now id code slice s).rxfCnt = s.rxfCnt := by
  simp [boundary]
@[simp] theorem boundary_rxfLen (now : TimeStamp) (id : Byte) (code : Word) (slice : Bytes) :
    (boundary now id code slice s).rxfLen = s.rxfLen := by
  simp [boundary]
@[simp] theorem boundary_rxfBuf (now : TimeStamp) (id : Byte) (code : Word) (slice : Bytes) :
    (boundary now id code slice s).rxfBuf = s.rxfBuf := by
  simp [boundary]
@[simp] theorem boundary_tx (now : TimeStamp) (id : Byte) (code : Word) (slice : Bytes) :
    (boundary now id code slice s).tx = s.tx := by
  simp [boundary]
@[simp] theorem boundary_port (now : TimeStamp) (id : Byte) (code : Word) (slice : Bytes) :
    (boundary now id code slice s).port = s.port := by
  simp [boundary]
@[simp] theorem boundary_esticky (now : TimeStamp) (id : Byte) (code : Word) (slice : Bytes) :
    (boundary now id code slice s).esticky = s.esticky := by
  simp [boundary]
@[simp] theorem boundary_elast (now : TimeStamp) (id : Byte) (code : Word) (slice : Bytes) :
    (boundary now id code slice s).elast = s.elast := by
  simp [boundary]

/-! #### `appendSlice` -/

@[simp] theorem appendSlice_cfg (slice : Bytes) (ctx : Context) :
    (appendSlice slice ctx s).cfg = s.cfg := by
  simp [appendSlice]
@[simp] theorem appendSlice_ncad (slice : Bytes) (ctx : Context) :
    (appendSlice slice ctx s).ncad = s.ncad := by
  simp [appendSlice]
@[simp] theorem appendSlice_rxfState (slice : Bytes) (ctx : Context) :
    (appendSlice slice ctx s).rxfState = s.rxfState := by
  simp [appendSlice]
@[simp] theorem appendSlice_rxfWin (slice : Bytes) (ctx : Context) :
    (appendSlice slice ctx s).rxfWin = s.rxfWin := by
  simp [appendSlice]
@[simp] theorem appendSlice_rxfCnt (slice : Bytes) (ctx : Context) :
    (appendSlice slice ctx s).rxfCnt = s.rxfCnt := by
  simp [appendSlice]
@[simp] theorem appendSlice_rxfLen (slice : Bytes) (ctx : Context) :
    (appendSlice slice ctx s).rxfLen = s.rxfLen := by
  simp [appendSlice]
@[simp] theorem appendSlice_rxfBuf (slice : Bytes) (ctx : Context) :
    (appendSlice slice ctx s).rxfBuf = s.rxfBuf := by
  simp [appendSlice]
@[simp] theorem appendSlice_tx (slice : Bytes) (ctx : Context) :
    (appendSlice slice ctx s).tx = s.tx := by
  simp [appendSlice]
@[simp] theorem appendSlice_port (slice : Bytes) (ctx : Context) :
    (appendSlice slice ctx s).port = s.port := by
  simp [appendSlice]
@[simp] theorem appendSlice_esticky (slice : Bytes) (ctx : Context) :
    (appendSlice slice ctx s).esticky = s.esticky := by
  simp [appendSlice]
@[simp] theorem appendSlice_elast (slice : Bytes) (ctx : Context) :
    (appendSlice slice ctx s).elast = s.elast := by
  simp [appendSlice]

/-! #### `reassemble` -/

@[simp] theorem reassemble_cfg (cap : Option Nat) (now : TimeStamp) (id : Byte) (code : Word) (slice : Bytes) :
    (reassemble cap now id code slice s).cfg = s.cfg := by
  unfold reassemble overflowSlice; (repeat' split) <;> simp
@[simp] theorem reassemble_ncad (cap : Option Nat) (now : TimeStamp) (id : Byte) (code : Word) (slice : Bytes) :
    (reassemble cap now id code slice s).ncad = s.ncad := by
  unfold reassemble overflowSlice; (repeat' split) <;> simp
@[simp] theorem reassemble_rxfState (cap : Option Nat) (now : TimeStamp) (id : Byte) (code : Word) (slice : Bytes) :
    (reassemble cap now id code slice s).rxfState = s.rxfState := by
  unfold reassemble overflowSlice; (repeat' split) <;> simp
@[simp] theorem reassemble_rxfWin (cap : Option Nat) (now : TimeStamp) (id : Byte) (code : Word) (slice : Bytes) :
    (reassemble cap now id code slice s).rxfWin = s.rxfWin := by
  unfold reassemble overflowSlice; (repeat' split) <;> simp
@[simp] theorem reassemble_rxfCnt (cap : Option Nat) (now : TimeStamp) (id : Byte) (code : Word) (slice : Bytes) :
    (reassemble cap now id code slice s).rxfCnt = s.rxfCnt := by
  unfold reassemble overflowSlice; (repeat' split) <;> simp
@[simp] theorem reassemble_rxfLen (cap : Option Nat) (now : TimeStamp) (id : Byte) (code : Word) (slice : Bytes) :
    (reassemble cap now id code slice s).rxfLen = s.rxfLen := by
  unfold reassemble overflowSlice; (repeat' split) <;> simp
@[simp] theorem reassemble_rxfBuf (cap : Option Nat) (now : TimeStamp) (id : Byte) (code : Word) (slice : Bytes) :
    (reassemble cap now id code slice s).rxfBuf = s.rxfBuf := by
  unfold reassemble overflowSlice; (repeat' split) <;> simp
@[simp] theorem reassemble_tx (cap : Option Nat) (now : TimeStamp) (id : Byte) (code : Word) (slice : Bytes) :
    (reassemble cap now id code slice s).tx = s.tx := by
  unfold reassemble overflowSlice; (repeat' split) <;> simp
@[simp] theorem reassemble_port (cap : Option Nat) (now : TimeStamp) (id : Byte) (code : Word) (slice : Bytes) :
    (reassemble cap now id code slice s).port = s.port := by
  unfold reassemble overflowSlice; (repeat' split) <;> simp

/-! #### `handleText` -/

@[simp] theorem handleText_cfg (slice : Bytes) :
    (handleText slice s).cfg = s.cfg := by
  unfold handleText; split <;> simp
@[simp] theorem handleText_ncad (slice : Bytes) :
    (handleText slice s).ncad = s.ncad := by
  unfold handleText; split <;> simp
@[simp] theorem handleText_rxfState (slice : Bytes) :
    (handleText slice s).rxfState = s.rxfState := by
  unfold handleText; split <;> simp
@[simp] theorem handleText_rxfWin (slice : Bytes) :
    (handleText slice s).rxfWin = s.rxfWin := by
  unfold handleText; split <;> simp
@[simp] theorem handleText_rxfCnt (slice : Bytes) :
    (handleText slice s).rxfCnt = s.rxfCnt := by
  unfold handleText; split <;> simp
@[simp] theorem handleText_rxfLen (slice : Bytes) :
    (handleText slice s).rxfLen = s.rxfLen := by
  unfold handleText; split <;> simp
@[simp] theorem handleText_rxfBuf (slice : Bytes) :
    (handleText slice s).rxfBuf = s.rxfBuf := by
  unfold handleText; split <;> simp
@[simp] theorem handleText_tx (slice : Bytes) :
    (handleText slice s).tx = s.tx := by
  unfold handleText; split <;> simp
@[simp] theorem handleText_port (slice : Bytes) :
    (handleText slice s).port = s.port := by
  unfold handleText; split <;> simp
@[simp] theorem handleText_rsm (slice : Bytes) :
    (handleText slice s).rsm = s.rsm := by
  unfold handleText; split <;> simp

/-! #### `handleSsdv` -/

@[simp] theorem handleSsdv_cfg (cap : Option Nat) (now : TimeStamp) (slice : Bytes) :
    (handleSsdv cap now slice s).cfg = s.cfg := by
  simp [handleSsdv]
@[simp] theorem handleSsdv_ncad (cap : Option Nat) (now : TimeStamp) (slice : Bytes) :
    (handleSsdv cap now slice s).ncad = s.ncad := by
  simp [handleSsdv]
@[simp] theorem handleSsdv_rxfState (cap : Option Nat) (now : TimeStamp) (slice : Bytes) :
    (handleSsdv cap now slice s).rxfState = s.rxfState := by
  simp [handleSsdv]
@[simp] theorem handleSsdv_rxfWin (cap : Option Nat) (now : TimeStamp) (slice : Bytes) :
    (handleSsdv cap now slice s).rxfWin = s.rxfWin := by
  simp [handleSsdv]
@[simp] theorem handleSsdv_rxfCnt (cap : Option Nat) (now : TimeStamp) (slice : Bytes) :
    (handleSsdv cap now slice s).rxfCnt = s.rxfCnt := by
  simp [handleSsdv]
@[simp] theorem handleSsdv_rxfLen (cap : Option Nat) (now : TimeStamp) (slice : Bytes) :
    (handleSsdv cap now slice s).rxfLen = s.rxfLen := by
  simp [handleSsdv]
@[simp] theorem handleSsdv_rxfBuf (cap : Option Nat) (now : TimeStamp) (slice : Bytes) :
    (handleSsdv cap now slice s).rxfBuf = s.rxfBuf := by
  simp [handleSsdv]
@[simp] theorem handleSsdv_tx (cap : Option Nat) (now : TimeStamp) (slice : Bytes) :
    (handleSsdv cap now slice s).tx = s.tx := by
  simp [handleSsdv]
@[simp] theorem handleSsdv_port (cap : Option Nat) (now : TimeStamp) (slice : Bytes) :
    (handleSsdv cap now slice s).port = s.port := by
  simp [handleSsdv]

/-! #### `classify` -/

@[simp] theorem classify_cfg (cap : Option Nat) (now : TimeStamp) (slice : Bytes) :
    (classify cap now slice s).cfg = s.cfg := by
  unfold classify handleGps handleOrientation handleSecPayload handleImageTelemetry handleIdle
  split <;> simp
@[simp] theorem classify_ncad (cap : Option Nat) (now : TimeStamp) (slice : Bytes) :
    (classify cap now slice s).ncad = s.ncad := by
  unfold classify handleGps handleOrientation handleSecPayload handleImageTelemetry handleIdle
  split <;> simp
@[simp] theorem classify_rxfState (cap : Option Nat) (now : TimeStamp) (slice : Bytes) :
    (classify cap now slice s).rxfState = s.rxfState := by
  unfold classify handleGps handleOrientation handleSecPayload handleImageTelemetry handleIdle
  split <;> simp
@[simp] theorem classify_rxfWin (cap : Option Nat) (now : TimeStamp) (slice : Bytes) :
    (classify cap now slice s).rxfWin = s.rxfWin := by
  unfold classify handleGps handleOrientation handleSecPayload handleImageTelemetry handleIdle
  split <;> simp
@[simp] theorem classify_rxfCnt (cap : Option Nat) (now : TimeStamp) (slice : Bytes) :
    (classify cap now slice s).rxfCnt = s.rxfCnt := by
  unfold classify handleGps handleOrientation handleSecPayload handleImageTelemetry handleIdle
  split <;> simp
@[simp] theorem classify_rxfLen (cap : Option Nat) (now : TimeStamp) (slice : Bytes) :
    (classify cap now slice s).rxfLen = s.rxfLen := by
  unfold classify handleGps handleOrientation handleSecPayload handleImageTelemetry handleIdle
  split <;> simp
@[simp] theorem classify_rxfBuf (cap : Option Nat) (now : TimeStamp) (slice : Bytes) :
    (classify cap now slice s).rxfBuf = s.rxfBuf := by
  unfold classify handleGps handleOrientation handleSecPayload handleImageTelemetry handleIdle
  split <;> simp
@[simp] theorem classify_tx (cap : Option Nat) (now : TimeStamp) (slice : Bytes) :
    (classify cap now slice s).tx = s.tx := by
  unfold classify handleGps handleOrientation handleSecPayload handleImageTelemetry handleIdle
  split <;> simp
@[simp] theorem classify_port (cap : Option Nat) (now : TimeStamp) (slice : Bytes) :
    (classify cap now slice s).port = s.port := by
  unfold classify handleGps handleOrientation handleSecPayload handleImageTelemetry handleIdle
  split <;> simp

/-! #### `rxSliceWith` -/

@[simp] theorem rxSliceWith_cfg (cap : Option Nat) (now : TimeStamp) (data : Bytes) :
    (rxSliceWith cap now data s).cfg = s.cfg := by
  unfold rxSliceWith; split <;> simp
@[simp] theorem rxSliceWith_ncad (cap : Option Nat) (now : TimeStamp) (data : Bytes) :
    (rxSliceWith cap now data s).ncad = s.ncad := by
  unfold rxSliceWith; split <;> simp
@[simp] theorem rxSliceWith_rxfState (cap : Option Nat) (now : TimeStamp) (data : Bytes) :
    (rxSliceWith cap now data s).rxfState = s.rxfState := by
  unfold rxSliceWith; split <;> simp
@[simp] theorem rxSliceWith_rxfWin (cap : Option Nat) (now : TimeStamp) (data : Bytes) :
    (rxSliceWith cap now data s).rxfWin = s.rxfWin := by
  unfold rxSliceWith; split <;> simp
@[simp] theorem rxSliceWith_rxfCnt (cap : Option Nat) (now : TimeStamp) (data : Bytes) :
    (rxSliceWith cap now data s).rxfCnt = s.rxfCnt := by
  unfold rxSliceWith; split <;> simp
@[simp] theorem rxSliceWith_rxfLen (cap : Option Nat) (now : TimeStamp) (data : Bytes) :
    (rxSliceWith cap now data s).rxfLen = s.rxfLen := by
  unfold rxSliceWith; split <;> simp
@[simp] theorem rxSliceWith_rxfBuf (cap : Option Nat) (now : TimeStamp) (data : Bytes) :
    (rxSliceWith cap now data s).rxfBuf = s.rxfBuf := by
  unfold rxSliceWith; split <;> simp
@[simp] theorem rxSliceWith_tx (cap : Option Nat) (now : TimeStamp) (data : Bytes) :
    (rxSliceWith cap now data s).tx = s.tx := by
  unfold rxSliceWith; split <;> simp
@[simp] theorem rxSliceWith_port (cap : Option Nat) (now : TimeStamp) (data : Bytes) :
    (rxSliceWith cap now data s).port = s.port := by
  unfold rxSliceWith; split <;> simp

/-! #### `huntByte` -/

@[simp] theorem huntByte_cfg (b : Byte) :
    (huntByte b s).cfg = s.cfg := by
  simp only [huntByte]; split <;> rfl
@[simp] theorem huntByte_ncad (b : Byte) :
    (huntByte b s).ncad = s.ncad := by
  simp only [huntByte]; split <;> rfl
@[simp] theorem huntByte_esticky (b : Byte) :
    (huntByte b s).esticky = s.esticky := by
  simp only [huntByte]; split <;> rfl
@[simp] theorem huntByte_elast (b : Byte) :
    (huntByte b s).elast = s.elast := by
  simp only [huntByte]; split <;> rfl
@[simp] theorem huntByte_rxfBuf (b : Byte) :
    (huntByte b s).rxfBuf = s.rxfBuf := by
  simp only [huntByte]; split <;> rfl
@[simp] theorem huntByte_rsm (b : Byte) :
    (huntByte b s).rsm = s.rsm := by
  simp only [huntByte]; split <;> rfl
@[simp] theorem huntByte_tx (b : Byte) :
    (huntByte b s).tx = s.tx := by
  simp only [huntByte]; split <;> rfl
@[simp] theorem huntByte_out (b : Byte) :
    (huntByte b s).out = s.out := by
  simp only [huntByte]; split <;> rfl
@[simp] theorem huntByte_port (b : Byte) :
    (huntByte b s).port = s.port := by
  simp only [huntByte]; split <;> rfl

/-! #### `frameEnd` -/

@[simp] theorem frameEnd_cfg (cap : Option Nat) (now : TimeStamp) :
    (frameEnd cap now s).cfg = s.cfg := by
  simp only [frameEnd]; split <;> simp
@[simp] theorem frameEnd_ncad (cap : Option Nat) (now : TimeStamp) :
    (frameEnd cap now s).ncad = s.ncad := by
  simp only [frameEnd]; split <;> simp
@[simp] theorem frameEnd_rxfLen (cap : Option Nat) (now : TimeStamp) :
    (frameEnd cap now s).rxfLen = s.rxfLen := by
  simp only [frameEnd]; split <;> simp
@[simp] theorem frameEnd_rxfBuf (cap : Option Nat) (now : TimeStamp) :
    (frameEnd cap now s).rxfBuf = s.rxfBuf := by
  simp only [frameEnd]; split <;> simp
@[simp] theorem frameEnd_tx (cap : Option Nat) (now : TimeStamp) :
    (frameEnd cap now s).tx = s.tx := by
  simp only [frameEnd]; split <;> simp
@[simp] theorem frameEnd_port (cap : Option Nat) (now : TimeStamp) :
    (frameEnd cap now s).port = s.port := by
  simp only [frameEnd]; split <;> simp

/-! #### `captureByte` -/

@[simp] theorem captureByte_cfg (cap : Option Nat) (now : TimeStamp) (b : Byte) :
    (captureByte cap now b s).cfg = s.cfg := by
  simp only [captureByte]; split <;> simp
@[simp] theorem captureByte_ncad (cap : Option Nat) (now : TimeStamp) (b : Byte) :
    (captureByte cap now b s).ncad = s.ncad := by
  simp only [captureByte]; split <;> simp
@[simp] theorem captureByte_rxfLen (cap : Option Nat) (now : TimeStamp) (b : Byte) :
    (captureByte cap now b s).rxfLen = s.rxfLen := by
  simp only [captureByte]; split <;> simp
@[simp] theorem captureByte_tx (cap : Option Nat) (now : TimeStamp) (b : Byte) :
    (captureByte cap now b s).tx = s.tx := by
  simp only [captureByte]; split <;> simp
@[simp] theorem captureByte_port (cap : Option Nat) (now : TimeStamp) (b : Byte) :
    (captureByte cap now b s).port = s.port := by
  simp only [captureByte]; split <;> simp

/-! #### `byteStep` -/

@[simp] theorem byteStep_cfg (cap : Option Nat) (now : TimeStamp) (b : Byte) :
    (byteStep cap now s b).cfg = s.cfg := by
  unfold byteStep; split <;> simp
@[simp] theorem byteStep_ncad (cap : Option Nat) (now : TimeStamp) (b : Byte) :
    (byteStep cap now s b).ncad = s.ncad := by
  unfold byteStep; split <;> simp
@[simp] theorem byteStep_tx (cap : Option Nat) (now : TimeStamp) (b : Byte) :
    (byteStep cap now s b).tx = s.tx := by
  unfold byteStep; split <;> simp
@[simp] theorem byteStep_port (cap : Option Nat) (now : TimeStamp) (b : Byte) :
    (byteStep cap now s b).port = s.port := by
  unfold byteStep; split <;> simp

/-! #### `rxRun` -/

@[simp] theorem rxRun_cfg (cap : Option Nat) (now : TimeStamp) (data : Bytes) :
    (rxRun cap now data s).cfg = s.cfg := by
  unfold rxRun; induction data generalizing s with
  | nil => rfl
  | cons b data ih => simp [ih]
@[simp] theorem rxRun_ncad (cap : Option Nat) (now : TimeStamp) (data : Bytes) :
    (rxRun cap now data s).ncad = s.ncad := by
  unfold rxRun; induction data generalizing s with
  | nil => rfl
  | cons b data ih => simp [ih]
@[simp] theorem rxRun_tx (cap : Option Nat) (now : TimeStamp) (data : Bytes) :
    (rxRun cap now data s).tx = s.tx := by
  unfold rxRun; induction data generalizing s with
  | nil => rfl
  | cons b data ih => simp [ih]
@[simp] theorem rxRun_port (cap : Option Nat) (now : TimeStamp) (data : Bytes) :
    (rxRun cap now data s).port = s.port := by
  unfold rxRun; induction data generalizing s with
  | nil => rfl
  | cons b data ih => simp [ih]

/-! #### `fecEncodeWith` -/

@[simp] theorem fecEncodeWith_cfg (h : HTable) (data : Bytes) :
    (fecEncodeWith h data s).cfg = s.cfg := by
  simp only [fecEncodeWith]; split <;> simp
@[simp] theorem fecEncodeWith_ncad (h : HTable) (data : Bytes) :
    (fecEncodeWith h data s).ncad = s.ncad := by
  simp only [fecEncodeWith]; split <;> simp
@[simp] theorem fecEncodeWith_rxfState (h : HTable) (data : Bytes) :
    (fecEncodeWith h data s).rxfState = s.rxfState := by
  simp only [fecEncodeWith]; split <;> simp
@[simp] theorem fecEncodeWith_rxfWin (h : HTable) (data : Bytes) :
    (fecEncodeWith h data s).rxfWin = s.rxfWin := by
  simp only [fecEncodeWith]; split <;> simp
@[simp] theorem fecEncodeWith_rxfCnt (h : HTable) (data : Bytes) :
    (fecEncodeWith h data s).rxfCnt = s.rxfCnt := by
  simp only [fecEncodeWith]; split <;> simp
@[simp] theorem fecEncodeWith_rxfLen (h : HTable) (data : Bytes) :
    (fecEncodeWith h data s).rxfLen = s.rxfLen := by
  simp only [fecEncodeWith]; split <;> simp
@[simp] theorem fecEncodeWith_rxfBuf (h : HTable) (data : Bytes) :
    (fecEncodeWith h data s).rxfBuf = s.rxfBuf := by
  simp only [fecEncodeWith]; split <;> simp
@[simp] theorem fecEncodeWith_rsm (h : HTable) (data : Bytes) :
    (fecEncodeWith h data s).rsm = s.rsm := by
  simp only [fecEncodeWith]; split <;> simp
@[simp] theorem fecEncodeWith_port (h : HTable) (data : Bytes) :
    (fecEncodeWith h data s).port = s.port := by
  simp only [fecEncodeWith]; split <;> simp

/-! #### `frameWith` -/

@[simp] theorem frameWith_cfg (h : HTable) (fec : Bool) (data : Bytes) :
    (frameWith h fec data s).cfg = s.cfg := by
  simp only [frameWith]; split <;> simp
@[simp] theorem frameWith_ncad (h : HTable) (fec : Bool) (data : Bytes) :
    (frameWith h fec data s).ncad = s.ncad := by
  simp only [frameWith]; split <;> simp
@[simp] theorem frameWith_esticky (h : HTable) (fec : Bool) (data : Bytes) :
    (frameWith h fec data s).esticky = s.esticky := by
  simp only [frameWith]; split <;> simp
@[simp] theorem frameWith_elast (h : HTable) (fec : Bool) (data : Bytes) :
    (frameWith h fec data s).elast = s.elast := by
  simp only [frameWith]; split <;> simp
@[simp] theorem frameWith_rxfState (h : HTable) (fec : Bool) (data : Bytes) :
    (frameWith h fec data s).rxfState = s.rxfState := by
  simp only [frameWith]; split <;> simp
@[simp] theorem frameWith_rxfWin (h : HTable) (fec : Bool) (data : Bytes) :
    (frameWith h fec data s).rxfWin = s.rxfWin := by
  simp only [frameWith]; split <;> simp
@[simp] theorem frameWith_rxfCnt (h : HTable) (fec : Bool) (data : Bytes) :
    (frameWith h fec data s).rxfCnt = s.rxfCnt := by
  simp only [frameWith]; split <;> simp
@[simp] theorem frameWith_rxfLen (h : HTable) (fec : Bool) (data : Bytes) :
    (frameWith h fec data s).rxfLen = s.rxfLen := by
  simp only [frameWith]; split <;> simp
@[simp] theorem frameWith_rxfBuf (h : HTable) (fec : Bool) (data : Bytes) :
    (frameWith h fec data s).rxfBuf = s.rxfBuf := by
  simp only [frameWith]; split <;> simp
@[simp] theorem frameWith_rsm (h : HTable) (fec : Bool) (data : Bytes) :
    (frameWith h fec data s).rsm = s.rsm := by
  simp only [frameWith]; split <;> simp
@[simp] theorem frameWith_port (h : HTable) (fec : Bool) (data : Bytes) :
    (frameWith h fec data s).port = s.port := by
  simp only [frameWith]; split <;> simp

/-! #### `crcCommand` -/

@[simp] theorem crcCommand_cfg (data : Bytes) :
    (crcCommand data s).cfg = s.cfg := by
  simp only [crcCommand]; simp
@[simp] theorem crcCommand_ncad (data : Bytes) :
    (crcCommand data s).ncad = s.ncad := by
  simp only [crcCommand]; simp
@[simp] theorem crcCommand_esticky (data : Bytes) :
    (crcCommand data s).esticky = s.esticky := by
  simp only [crcCommand]; simp
@[simp] theorem crcCommand_elast (data : Bytes) :
    (crcCommand data s).elast = s.elast := by
  simp only [crcCommand]; simp
@[simp] theorem crcCommand_rxfState (data : Bytes) :
    (crcCommand data s).rxfState = s.rxfState := by
  simp only [crcCommand]; simp
@[simp] theorem crcCommand_rxfWin (data : Bytes) :
    (crcCommand data s).rxfWin = s.rxfWin := by
  simp only [crcCommand]; simp
@[simp] theorem crcCommand_rxfCnt (data : Bytes) :
    (crcCommand data s).rxfCnt = s.rxfCnt := by
  simp only [crcCommand]; simp
@[simp] theorem crcCommand_rxfLen (data : Bytes) :
    (crcCommand data s).rxfLen = s.rxfLen := by
  simp only [crcCommand]; simp
@[simp] theorem crcCommand_rxfBuf (data : Bytes) :
    (crcCommand data s).rxfBuf = s.rxfBuf := by
  simp only [crcCommand]; simp
@[simp] theorem crcCommand_rsm (data : Bytes) :
    (crcCommand data s).rsm = s.rsm := by
  simp only [crcCommand]; simp
@[simp] theorem crcCommand_port (data : Bytes) :
    (crcCommand data s).port = s.port := by
  simp only [crcCommand]; simp

/-! #### `configure` -/

@[simp] theorem configure_rxfState (cfg : Byte) (ncad : Half) :
    (configure cfg ncad s).rxfState = s.rxfState := by
  unfold configure; split <;> simp
@[simp] theorem configure_rxfWin (cfg : Byte) (ncad : Half) :
    (configure cfg ncad s).rxfWin = s.rxfWin := by
  unfold configure; split <;> simp
@[simp] theorem configure_rxfCnt (cfg : Byte) (ncad : Half) :
    (configure cfg ncad s).rxfCnt = s.rxfCnt := by
  unfold configure; split <;> simp
@[simp] theorem configure_rxfLen (cfg : Byte) (ncad : Half) :
    (configure cfg ncad s).rxfLen = s.rxfLen := by
  unfold configure; split <;> simp
@[simp] theorem configure_rxfBuf (cfg : Byte) (ncad : Half) :
    (configure cfg ncad s).rxfBuf = s.rxfBuf := by
  unfold configure; split <;> simp
@[simp] theorem configure_rsm (cfg : Byte) (ncad : Half) :
    (configure cfg ncad s).rsm = s.rsm := by
  unfold configure; split <;> simp
@[simp] theorem configure_tx (cfg : Byte) (ncad : Half) :
    (configure cfg ncad s).tx = s.tx := by
  unfold configure; split <;> simp
@[simp] theorem configure_port (cfg : Byte) (ncad : Half) :
    (configure cfg ncad s).port = s.port := by
  unfold configure; split <;> simp

end frames

end Sys2Proof.Machine
end

