-- ==== Sys2Proof/Laws/Ops.lean ====
section
/-! SUPPORT. What each shared operation can do, said once: the cases of fetching, stepping,
classifying, reassembling and receiving, and what any of them reports. -/

namespace Sys2Proof.Machine

/-! ### Fetching and stepping -/

/-- What a fetched command says of the port (R260). -/
theorem fetch_some (s : State) (f : Fetched) (h : fetch s = some f) :
    ∃ offer rest c, s.port = offer :: rest ∧ takeCommand offer.bytes = some c ∧
      f = ⟨offer.now, c.header, c.data, s.withPort (portAfter offer.now c.after rest)⟩ := by
  unfold fetch at h
  split at h
  · cases h
  · next offer rest hp =>
    split at h
    · cases h
    · next c hc =>
      cases h
      exact ⟨offer, rest, c, hp, hc, rfl⟩

/-- A whole command at the head of the port is fetched. -/
theorem fetch_of_port (s : State) (offer : Offer) (rest : List Offer) (c : TakenCommand)
    (hp : s.port = offer :: rest) (hc : takeCommand offer.bytes = some c) :
    fetch s =
      some ⟨offer.now, c.header, c.data, s.withPort (portAfter offer.now c.after rest)⟩ := by
  simp [fetch, hp, hc]

/-- What a step can do: wait, run the decoded instruction, or refuse an illegal header. -/
theorem step_cases (s t : State) (h : step s = .next t) :
    (fetch s = none ∧ t = s) ∨
    (∃ f i, fetch s = some f ∧ decodeCommand f.now f.header f.data = .ok i ∧
      exec i f.state = .next t) ∨
    (∃ f e, fetch s = some f ∧ decodeCommand f.now f.header f.data = .error e ∧
      t = illegalCommand f.header f.state) := by
  unfold step at h
  split at h
  · next hf =>
    cases h
    exact .inl ⟨hf, rfl⟩
  · next f hf =>
    split at h
    · next i hi => exact .inr (.inl ⟨f, i, hf, hi, h⟩)
    · next e he =>
      cases h
      exact .inr (.inr ⟨f, e, hf, he, rfl⟩)

/-- Every meaning answers a next state (R280). -/
theorem exec_total (i : Instr) (s : State) : ∃ t, exec i s = .next t := by
  cases i <;> exact ⟨_, rfl⟩

/-- A command's decoding is a command. -/
theorem decodeCommand_format (now : TimeStamp) (header : Word) (data : Bytes) (i : Instr)
    (h : decodeCommand now header data = .ok i) : i.format = .cmd := by
  unfold decodeCommand at h
  split at h <;> cases h <;> rfl

/-! ### Reassembling and classifying -/

/-- The transitions of the reassembler (R201 to R205, R212). -/
theorem reassemble_cases (cap : Option Nat) (now : TimeStamp) (id : Byte) (code : Word)
    (slice : Bytes) (s : State) :
    (s.rsm = .noImage ∧ reassemble cap now id code slice s =
      s.withRsm (.accumulating (openContext now id code slice))) ∨
    (∃ ctx, s.rsm = .accumulating ctx ∧ sameKey ctx id code = false ∧
      reassemble cap now id code slice s =
        (s.emit ctx.finalRecord).withRsm (.accumulating (openContext now id code slice))) ∨
    (∃ ctx, s.rsm = .accumulating ctx ∧ sameKey ctx id code = true ∧
      atCap cap ctx.pktCount = true ∧
      reassemble cap now id code slice s = s.raise (.overflow id code)) ∨
    (∃ ctx, s.rsm = .accumulating ctx ∧ sameKey ctx id code = true ∧
      atCap cap ctx.pktCount = false ∧
      reassemble cap now id code slice s = appendSlice slice ctx s) := by
  cases h : s.rsm with
  | noImage => exact .inl ⟨rfl, by simp [reassemble, boundary, finalize, h]⟩
  | accumulating ctx =>
    refine .inr ?_
    cases hk : sameKey ctx id code with
    | false => exact .inl ⟨ctx, rfl, hk, by simp [reassemble, boundary, finalize, h, hk]⟩
    | true =>
      refine .inr ?_
      cases hc : atCap cap ctx.pktCount with
      | true => exact .inl ⟨ctx, rfl, hk, hc, by simp [reassemble, h, hk, hc, overflowSlice]⟩
      | false => exact .inr ⟨ctx, rfl, hk, hc, by simp [reassemble, h, hk, hc]⟩

/-- Appending either only grows the context or also emits a preview (R203, R204). -/
theorem appendSlice_cases (slice : Bytes) (ctx : Context) (s : State) :
    (previewDue s.ncad (ctx.pktCount + 1) = false ∧
      appendSlice slice ctx s = s.withRsm (.accumulating (ctx.append slice))) ∨
    (previewDue s.ncad (ctx.pktCount + 1) = true ∧
      appendSlice slice ctx s =
        (s.withRsm (.accumulating (ctx.append slice))).emit (ctx.append slice).previewRecord) := by
  cases h : previewDue s.ncad (ctx.pktCount + 1) with
  | false => exact .inl ⟨rfl, by simp [appendSlice, previewTest, h]⟩
  | true => exact .inr ⟨rfl, by simp [appendSlice, previewTest, h]⟩

/-- What classifying a slice can do (R184, R185, R230 to R236). -/
theorem classify_cases (cap : Option Nat) (now : TimeStamp) (slice : Bytes) (s : State) :
    classify cap now slice s = s ∨
    (∃ type, classify cap now slice s = s.emit (.telem type slice)) ∨
    (∃ e, (e = .packetType (byteAt slice 0) ∨ e = .packetStruct 0x00 (textLength slice)) ∧
      classify cap now slice s = s.raise e) ∨
    (byteAt slice 0 = 0x55 ∧
      classify cap now slice s = reassemble cap now (ssdvImageId slice) (ssdvCode slice) slice s) := by
  unfold classify
  split
  · unfold handleText
    split
    · exact .inr (.inr (.inl ⟨_, .inr rfl, rfl⟩))
    · exact .inr (.inl ⟨_, rfl⟩)
  · exact .inr (.inl ⟨_, rfl⟩)
  · exact .inr (.inl ⟨_, rfl⟩)
  · exact .inr (.inl ⟨_, rfl⟩)
  · exact .inr (.inl ⟨_, rfl⟩)
  · next h => exact .inr (.inr (.inr ⟨(packetTypeOf_eq_some_iff _ _).1 h, rfl⟩))
  · exact .inl rfl
  · exact .inr (.inr (.inl ⟨_, .inl rfl, rfl⟩))

/-- A slice that is not an SSDV packet leaves the reassembler alone (R208 to R210). -/
theorem classify_rsm_of_not_ssdv (cap : Option Nat) (now : TimeStamp) (slice : Bytes) (s : State)
    (h : byteAt slice 0 ≠ 0x55) : (classify cap now slice s).rsm = s.rsm := by
  rcases classify_cases cap now slice s with e | ⟨_, e⟩ | ⟨_, _, e⟩ | ⟨h', _⟩
  · rw [e]
  · rw [e]; rfl
  · rw [e]; rfl
  · exact absurd h' h

/-! ### Receiving -/

/-- What the end of a frame does (R175 to R178). -/
theorem frameEnd_cases (cap : Option Nat) (now : TimeStamp) (s : State) :
    (capturedChecksum s = crc16 (capturedPayload s) ∧
      frameEnd cap now s = classify cap now (capturedPayload s) (returnToHunt s)) ∨
    (capturedChecksum s ≠ crc16 (capturedPayload s) ∧
      frameEnd cap now s =
        (returnToHunt s).raise (.crc (crc16 (capturedPayload s)) (capturedChecksum s))) := by
  unfold frameEnd
  by_cases h : capturedChecksum s = crc16 (capturedPayload s)
  · exact .inl ⟨h, by simp [h]⟩
  · exact .inr ⟨h, by simp [h]⟩

/-- What a received byte does (R172 to R174). -/
theorem byteStep_cases (cap : Option Nat) (now : TimeStamp) (b : Byte) (s : State) :
    (s.rxfState = .hunt ∧ windowAfter s.rxfWin b = Config.uniqueWordValue ∧
      byteStep cap now s b = uwMatch { s with rxfWin := windowAfter s.rxfWin b }) ∨
    (s.rxfState = .hunt ∧ windowAfter s.rxfWin b ≠ Config.uniqueWordValue ∧
      byteStep cap now s b = { s with rxfWin := windowAfter s.rxfWin b }) ∨
    (s.rxfState = .capture ∧ s.rxfCnt + 1 ≠ s.rxfLen ∧ byteStep cap now s b = storeByte b s) ∨
    (s.rxfState = .capture ∧ s.rxfCnt + 1 = s.rxfLen ∧
      byteStep cap now s b = frameEnd cap now (storeByte b s)) := by
  unfold byteStep
  split
  · next h =>
    by_cases hw : windowAfter s.rxfWin b = Config.uniqueWordValue
    · exact .inl ⟨h, hw, if_pos hw⟩
    · exact .inr (.inl ⟨h, hw, if_neg hw⟩)
  · next h =>
    refine .inr (.inr ?_)
    by_cases hc : s.rxfCnt + 1 = s.rxfLen
    · exact .inr ⟨h, hc, if_pos hc⟩
    · exact .inl ⟨h, hc, if_neg hc⟩

@[simp] theorem rxRun_nil (cap : Option Nat) (now : TimeStamp) (s : State) :
    rxRun cap now [] s = s := rfl

@[simp] theorem rxRun_cons (cap : Option Nat) (now : TimeStamp) (b : Byte) (data : Bytes)
    (s : State) : rxRun cap now (b :: data) s = rxRun cap now data (byteStep cap now s b) := rfl

/-- Receiving a sequence is receiving its parts one after the other (R75, R186). -/
theorem rxRun_append (cap : Option Nat) (now : TimeStamp) (a b : Bytes) (s : State) :
    rxRun cap now (a ++ b) s = rxRun cap now b (rxRun cap now a s) := by
  simp [rxRun]

/-- What every byte keeps, a byte sequence keeps. -/
theorem rxRun_induction {P : State → Prop} (cap : Option Nat) (now : TimeStamp)
    (hb : ∀ s b, P s → P (byteStep cap now s b)) (data : Bytes) (s : State) (hs : P s) :
    P (rxRun cap now data s) := by
  induction data generalizing s with
  | nil => exact hs
  | cons b data ih => exact ih _ (hb s b hs)

/-! ### What is reported -/

/-- One state reports its way to another: `OUT` grows by records that are no errors, with the error
registers untouched, or by errors raised (R36, R290). -/
inductive Reports : State → State → Prop where
  | quiet {s t : State} (out : t.out = s.out) (sticky : t.esticky = s.esticky)
      (last : t.elast = s.elast) : Reports s t
  | record {s t : State} (r : Record) (kind : r.isError = false) (out : t.out = s.out ++ [r])
      (sticky : t.esticky = s.esticky) (last : t.elast = s.elast) : Reports s t
  | error {s t : State} (e : BlockError) (out : t.out = s.out ++ [e.record])
      (sticky : t.esticky = stickyAfter s.esticky e) (last : t.elast = e.code) : Reports s t
  | trans {s t u : State} (first : Reports s t) (second : Reports t u) : Reports s u

theorem Reports.refl (s : State) : Reports s s := .quiet rfl rfl rfl

theorem raise_reports (e : BlockError) (s : State) : Reports s (s.raise e) := .error e rfl rfl rfl

theorem reassemble_reports (cap : Option Nat) (now : TimeStamp) (id : Byte) (code : Word)
    (slice : Bytes) (s : State) : Reports s (reassemble cap now id code slice s) := by
  rcases reassemble_cases cap now id code slice s with
    ⟨_, e⟩ | ⟨ctx, _, _, e⟩ | ⟨ctx, _, _, _, e⟩ | ⟨ctx, _, _, _, e⟩ <;> rw [e]
  · exact .quiet rfl rfl rfl
  · exact .record ctx.finalRecord rfl rfl rfl rfl
  · exact raise_reports _ _
  · rcases appendSlice_cases slice ctx s with ⟨_, e⟩ | ⟨_, e⟩ <;> rw [e]
    · exact .quiet rfl rfl rfl
    · exact .record (ctx.append slice).previewRecord rfl rfl rfl rfl

theorem classify_reports (cap : Option Nat) (now : TimeStamp) (slice : Bytes) (s : State) :
    Reports s (classify cap now slice s) := by
  rcases classify_cases cap now slice s with e | ⟨type, e⟩ | ⟨_, _, e⟩ | ⟨_, e⟩ <;> rw [e]
  · exact .refl s
  · exact .record (.telem type slice) rfl rfl rfl rfl
  · exact raise_reports _ _
  · exact reassemble_reports _ _ _ _ _ _

theorem byteStep_reports (cap : Option Nat) (now : TimeStamp) (b : Byte) (s : State) :
    Reports s (byteStep cap now s b) := by
  rcases byteStep_cases cap now b s with ⟨_, _, e⟩ | ⟨_, _, e⟩ | ⟨_, _, e⟩ | ⟨_, _, e⟩ <;> rw [e]
  · exact .quiet rfl rfl rfl
  · exact .quiet rfl rfl rfl
  · exact .quiet rfl rfl rfl
  · have q : Reports s (returnToHunt (storeByte b s)) := .quiet rfl rfl rfl
    rcases frameEnd_cases cap now (storeByte b s) with ⟨_, e⟩ | ⟨_, e⟩ <;> rw [e]
    · exact q.trans (classify_reports _ _ _ _)
    · exact q.trans (raise_reports _ _)

theorem rxRun_reports (cap : Option Nat) (now : TimeStamp) (data : Bytes) (s : State) :
    Reports s (rxRun cap now data s) :=
  rxRun_induction (P := Reports s) cap now (fun t b h => h.trans (byteStep_reports cap now b t))
    data s (.refl s)

/-- Every instruction but `RESET` only reports. -/
theorem exec_reports (i : Instr) (s t : State) (hi : i ≠ .reset) (h : exec i s = .next t) :
    Reports s t := by
  cases i <;> cases h
  case reset => exact absurd rfl hi
  case fecEncode data =>
    unfold fecEncodeWith
    split
    · exact raise_reports _ _
    · exact .record (.parity (s.tx.fecRun Config.hrows data).parb) rfl (by simp) (by simp)
        (by simp)
  case crc16 data =>
    exact .record (.crc (lo8 (Machine.crc16 data)) (hi8 (Machine.crc16 data))) rfl
      (by simp [crcCommand]) (by simp) (by simp)
  case frame fec data =>
    cases fec
    · exact .record (.frame (memRead ((s.tx.padTrunc data).checksum.assemble0).fbuf 0 278)) rfl
        (by simp [frameWith]) (by simp) (by simp)
    · exact .record (.frame (memRead
        ((s.tx.padTrunc data).checksum.assemble1 Config.hrows).fbuf 0 343)) rfl
        (by simp [frameWith]) (by simp) (by simp)
  case rxBytes now data => exact rxRun_reports _ _ _ _
  case rxSlice now data =>
    unfold rxSliceWith
    split
    · exact raise_reports _ _
    · exact classify_reports _ _ _ _
  case setConfig cfg ncad =>
    unfold configure
    split
    · exact raise_reports _ _
    · exact .quiet rfl rfl rfl
  case getStatus => exact .record (statusRecord s) rfl rfl rfl rfl
  case textMessage l q rest =>
    unfold handleText
    split
    · exact raise_reports _ _
    · exact .record (.telem 0x00 (textSlice l q rest)) rfl rfl rfl rfl
  case gpsTelemetry g rest => exact .record (.telem 0x01 (gpsSlice g rest)) rfl rfl rfl rfl
  case orientationTelemetry w o l rest =>
    exact .record (.telem 0x02 (orientSlice w o l rest)) rfl rfl rfl rfl
  case secPayloadTelemetry j data => exact .record (.telem 0x03 (secplSlice j data)) rfl rfl rfl rfl
  case imageTelemetry rest => exact .record (.telem 0x54 (imgtlmSlice rest)) rfl rfl rfl rfl
  case ssdv now header rest => exact reassemble_reports _ _ _ _ _ _
  case idle rest => exact .refl s
  case frame0 now preamble payload checksum => exact rxRun_reports _ _ _ _
  case frame1 now preamble payload checksum parity => exact rxRun_reports _ _ _ _

/-- Reporting only grows `OUT` (R36). -/
theorem Reports.out {s t : State} (h : Reports s t) : s.out <+: t.out := by
  induction h with
  | quiet out => rw [out]
  | record r _ out => rw [out]; exact List.prefix_append _ _
  | error e out => rw [out]; exact List.prefix_append _ _
  | trans _ _ h1 h2 => exact h1.trans h2

/-- Reporting never clears a sticky bit (R24). -/
theorem Reports.sticky {s t : State} (h : Reports s t) (n : Nat) (hn : s.esticky.getLsbD n = true) :
    t.esticky.getLsbD n = true := by
  induction h with
  | quiet _ sticky => rw [sticky]; exact hn
  | record _ _ _ sticky => rw [sticky]; exact hn
  | error e _ sticky =>
    rw [sticky]
    simp [stickyAfter, hn]
  | trans _ _ h1 h2 => exact h2 (h1 hn)

end Sys2Proof.Machine
end

