-- ==== Sys2Proof/Laws/Memory.lean ====
section
/-! SUPPORT. The buffers of the block keep the sizes 20_memory.md R60 gives them: one lemma for each
operation that writes a buffer, and for the machine right after reset. -/

namespace Sys2Proof.Machine

/-- The sizes of the transmit buffers (R60). -/
structure TxSized (t : TxRegs) : Prop where
  pbuf : t.pbuf.length = 256
  info : t.info.length = 258
  ibits : t.ibits.length = 2064
  pbits : t.pbits.length = 516
  parb : t.parb.length = 65
  fbuf : t.fbuf.length = 343

/-- `Memory.wf`, buffer by buffer. -/
theorem memory_wf_iff (s : State) :
    Memory.wf s = true ↔
      s.rxfBuf.length = 323 ∧ TxSized s.tx ∧ Memory.imageWf s.rsm = true := by
  simp only [Memory.wf, Bool.and_eq_true, beq_iff_eq]
  constructor
  · rintro ⟨⟨⟨⟨⟨⟨⟨h1, h2⟩, h3⟩, h4⟩, h5⟩, h6⟩, h7⟩, h8⟩
    exact ⟨h1, ⟨h2, h3, h4, h5, h6, h7⟩, h8⟩
  · rintro ⟨h1, ⟨h2, h3, h4, h5, h6, h7⟩, h8⟩
    exact ⟨⟨⟨⟨⟨⟨⟨h1, h2⟩, h3⟩, h4⟩, h5⟩, h6⟩, h7⟩, h8⟩

/-- The memory of the machine right after reset is well-formed. -/
theorem memory_wf_reset : Memory.wf State.reset = true := by decide +kernel

theorem padTruncBytes_length (data : Bytes) : (padTruncBytes data).length = 256 := by
  simp [padTruncBytes]

theorem bitUnpack_ibits_length (t : TxRegs) : t.bitUnpack.ibits.length = 2064 := by
  simp [TxRegs.bitUnpack]

theorem bitPack_parb_length (t : TxRegs) : t.bitPack.parb.length = 65 := by
  simp [TxRegs.bitPack]

/-- What an accumulation of rows leaves alone. -/
theorem accumRows_frame (h : HTable) (n : Nat) (t : TxRegs) :
    (t.accumRows h n).pbuf = t.pbuf ∧ (t.accumRows h n).crcr = t.crcr ∧
    (t.accumRows h n).info = t.info ∧ (t.accumRows h n).ibits = t.ibits ∧
    (t.accumRows h n).parb = t.parb ∧ (t.accumRows h n).fbuf = t.fbuf := by
  induction n with
  | zero => exact ⟨rfl, rfl, rfl, rfl, rfl, rfl⟩
  | succ n ih =>
    have e : t.accumRows h (n + 1) = (t.accumRows h n).accum h n := by
      simp [TxRegs.accumRows, List.range_succ]
    rw [e]
    exact ih

/-- One more row accumulated (R134, R135). -/
theorem accumRows_succ (h : HTable) (n : Nat) (t : TxRegs) :
    t.accumRows h (n + 1) = (t.accumRows h n).accum h n := by
  simp [TxRegs.accumRows, List.range_succ]

/-- The rows write inside `PBITS`. -/
theorem accumRows_pbits_length (h : HTable) (n : Nat) (t : TxRegs) (hn : n ≤ t.pbits.length) :
    (t.accumRows h n).pbits.length = t.pbits.length := by
  induction n with
  | zero => rfl
  | succ n ih =>
    have hl := ih (by omega)
    rw [accumRows_succ]
    show (memWrite _ n [_]).length = _
    rw [memWrite_length] <;> simp [hl]
    omega

/-- An encode keeps the sizes when it is given an information block (R131). -/
theorem fecRun_sized (h : HTable) (data : Bytes) (t : TxRegs) (hd : data.length = 258)
    (ht : TxSized t) : TxSized (t.fecRun h data) := by
  have f := accumRows_frame h 516 (t.loadInfo data).bitUnpack
  have hp := accumRows_pbits_length h 516 (t.loadInfo data).bitUnpack (by simp [ht.pbits])
  refine ⟨?_, ?_, ?_, ?_, ?_, ?_⟩
  · simp [TxRegs.fecRun, f, ht.pbuf]
  · simp [TxRegs.fecRun, f, hd]
  · simp [TxRegs.fecRun, f]
  · simp [TxRegs.fecRun, hp, ht.pbits]
  · exact bitPack_parb_length _
  · simp [TxRegs.fecRun, f, ht.fbuf]

/-- A frame built in `FBUF` keeps the sizes (R154, R155). -/
theorem assemble0_sized (t : TxRegs) (ht : TxSized t) : TxSized t.assemble0 := by
  refine ⟨ht.pbuf, ht.info, ht.ibits, ht.pbits, ht.parb, ?_⟩
  have hl : (frameBytes framePreamble t.pbuf t.crcr []).length = 278 := by
    simp [frameBytes_length, framePreamble, ht.pbuf]
  rw [TxRegs.assemble0_fbuf, memWrite_length _ _ _ (by rw [hl, ht.fbuf]; decide), ht.fbuf]

/-- The buffer of `ASSEMBLE` with parity (R155). -/
theorem assemble1_eq (h : HTable) (t : TxRegs) :
    t.assemble1 h =
      { t.fecRun h (t.pbuf ++ le16Bytes t.crcr) with
        fbuf := memWrite (t.fecRun h (t.pbuf ++ le16Bytes t.crcr)).fbuf 0
          (frameBytes framePreamble (t.fecRun h (t.pbuf ++ le16Bytes t.crcr)).pbuf
            (t.fecRun h (t.pbuf ++ le16Bytes t.crcr)).crcr
            (t.fecRun h (t.pbuf ++ le16Bytes t.crcr)).parb) } := by
  unfold TxRegs.assemble1
  with_reducible rfl

theorem assemble1_sized (h : HTable) (t : TxRegs) (ht : TxSized t) : TxSized (t.assemble1 h) := by
  have hu := fecRun_sized h (t.pbuf ++ le16Bytes t.crcr) t (by simp [ht.pbuf]) ht
  have hl : (frameBytes framePreamble (t.fecRun h (t.pbuf ++ le16Bytes t.crcr)).pbuf
      (t.fecRun h (t.pbuf ++ le16Bytes t.crcr)).crcr
      (t.fecRun h (t.pbuf ++ le16Bytes t.crcr)).parb).length = 343 := by
    simp [frameBytes_length, framePreamble, hu.pbuf, hu.parb]
  have hf := hu.fbuf
  rw [assemble1_eq]
  generalize t.fecRun h (t.pbuf ++ le16Bytes t.crcr) = u at *
  refine ⟨hu.pbuf, hu.info, hu.ibits, hu.pbits, hu.parb, ?_⟩
  refine (memWrite_length u.fbuf 0 _ ?_).trans hf
  omega

theorem padTrunc_sized (data : Bytes) (t : TxRegs) (ht : TxSized t) : TxSized (t.padTrunc data) :=
  ⟨padTruncBytes_length data, ht.info, ht.ibits, ht.pbits, ht.parb, ht.fbuf⟩

theorem checksum_sized (t : TxRegs) (ht : TxSized t) : TxSized t.checksum :=
  ⟨ht.pbuf, ht.info, ht.ibits, ht.pbits, ht.parb, ht.fbuf⟩

/-- `FEC_ENCODE`, `FRAME` and `CRC16` keep the sizes of the transmit buffers. -/
theorem fecEncodeWith_sized (h : HTable) (data : Bytes) (s : State) (ht : TxSized s.tx) :
    TxSized (fecEncodeWith h data s).tx := by
  unfold fecEncodeWith
  split
  · exact ht
  · next hd => exact fecRun_sized h data s.tx (by simpa using hd) ht

theorem frameWith_sized (h : HTable) (fec : Bool) (data : Bytes) (s : State) (ht : TxSized s.tx) :
    TxSized (frameWith h fec data s).tx := by
  have hp := checksum_sized _ (padTrunc_sized data s.tx ht)
  unfold frameWith
  cases fec
  · exact assemble0_sized _ hp
  · exact assemble1_sized h _ hp

theorem crcCommand_sized (data : Bytes) (s : State) (ht : TxSized s.tx) :
    TxSized (crcCommand data s).tx :=
  ⟨ht.pbuf, ht.info, ht.ibits, ht.pbits, ht.parb, ht.fbuf⟩

/-- A captured byte is written inside `RXF_BUF` (R31, R174). -/
theorem storeByte_rxfBuf_length (b : Byte) (s : State) (hb : s.rxfBuf.length = 323)
    (hc : s.rxfCnt.toNat < 323) : (storeByte b s).rxfBuf.length = 323 := by
  show (memWrite s.rxfBuf s.rxfCnt.toNat [b]).length = 323
  rw [memWrite_length] <;> simp [hb]
  omega

/-- A captured byte written inside `RXF_BUF` replaces one byte. -/
theorem storeByte_rxfBuf_set (b : Byte) (s : State) (hc : s.rxfCnt.toNat < s.rxfBuf.length) :
    (storeByte b s).rxfBuf = s.rxfBuf.set s.rxfCnt.toNat b := by
  show memWrite s.rxfBuf s.rxfCnt.toNat [b] = _
  rw [List.set_eq_take_append_cons_drop]
  simp [memWrite, hc]

/-- An append is at the end of `IBUF` (R74, R203). -/
theorem append_ibuf_end (slice : Bytes) (ctx : Context)
    (hi : ctx.ibuf.length = 256 * ctx.pktCount) : (ctx.append slice).ibuf = ctx.ibuf ++ slice := by
  show memWrite ctx.ibuf (256 * ctx.pktCount) slice = _
  rw [← hi, memWrite_end]

/-- A record carries all of `IBUF` (R204, R205). -/
theorem contents_eq (ctx : Context) (hi : ctx.ibuf.length = 256 * ctx.pktCount) :
    ctx.contents = ctx.ibuf := by
  simp [Context.contents, memRead, ← hi]

/-- The reassembler keeps 256 bytes for each packet counted (R33). -/
theorem reassemble_imageWf (cap : Option Nat) (now : TimeStamp) (id : Byte) (code : Word)
    (slice : Bytes) (s : State) (hs : slice.length = 256) (hr : Memory.imageWf s.rsm = true) :
    Memory.imageWf (reassemble cap now id code slice s).rsm = true := by
  have hopen : Memory.imageWf (.accumulating (openContext now id code slice)) = true := by
    simp [Memory.imageWf, openContext, hs]
  rcases reassemble_cases cap now id code slice s with
    ⟨_, e⟩ | ⟨ctx, _, _, e⟩ | ⟨ctx, _, _, _, e⟩ | ⟨ctx, h, _, _, e⟩ <;> rw [e]
  · exact hopen
  · exact hopen
  · exact hr
  · rw [h] at hr
    have hi : ctx.ibuf.length = 256 * ctx.pktCount := by simpa [Memory.imageWf] using hr
    have hg : Memory.imageWf (.accumulating (ctx.append slice)) = true := by
      simp only [Memory.imageWf, beq_iff_eq]
      rw [append_ibuf_end slice ctx hi]
      simp [hi, hs]
      omega
    rcases appendSlice_cases slice ctx s with ⟨_, e⟩ | ⟨_, e⟩ <;> rw [e] <;> exact hg

/-- Classifying a slice keeps the image buffer well-formed. -/
theorem classify_imageWf (cap : Option Nat) (now : TimeStamp) (slice : Bytes) (s : State)
    (hs : slice.length = 256) (hr : Memory.imageWf s.rsm = true) :
    Memory.imageWf (classify cap now slice s).rsm = true := by
  rcases classify_cases cap now slice s with e | ⟨_, e⟩ | ⟨_, _, e⟩ | ⟨_, e⟩ <;> rw [e]
  · exact hr
  · exact hr
  · exact hr
  · exact reassemble_imageWf _ _ _ _ _ _ hs hr

/-- `RX_SLICE` keeps the memory well-formed. -/
theorem rxSliceWith_wf (cap : Option Nat) (now : TimeStamp) (data : Bytes) (s : State)
    (h : Memory.wf s = true) : Memory.wf (rxSliceWith cap now data s) = true := by
  rw [memory_wf_iff] at h ⊢
  refine ⟨by simpa using h.1, by simpa using h.2.1, ?_⟩
  unfold rxSliceWith
  split
  · exact h.2.2
  · next hd => exact classify_imageWf _ _ _ _ (by simpa using hd) h.2.2

/-- A received byte keeps the memory well-formed while the capture count is inside the buffer. -/
theorem byteStep_wf (cap : Option Nat) (now : TimeStamp) (b : Byte) (s : State)
    (h : Memory.wf s = true) (hc : s.rxfState = .capture → s.rxfCnt.toNat < 323) :
    Memory.wf (byteStep cap now s b) = true := by
  rw [memory_wf_iff] at h ⊢
  rcases byteStep_cases cap now b s with ⟨_, _, e⟩ | ⟨_, _, e⟩ | ⟨hs, _, e⟩ | ⟨hs, _, e⟩ <;> rw [e]
  · exact h
  · exact h
  · exact ⟨storeByte_rxfBuf_length b s h.1 (hc hs), h.2.1, h.2.2⟩
  · have hl := storeByte_rxfBuf_length b s h.1 (hc hs)
    rcases frameEnd_cases cap now (storeByte b s) with ⟨_, e⟩ | ⟨_, e⟩ <;> rw [e]
    · refine ⟨by simpa using hl, by simpa using h.2.1, ?_⟩
      refine classify_imageWf _ _ _ _ ?_ h.2.2
      simp only [capturedPayload, memRead_length, hl]
      decide
    · exact ⟨hl, h.2.1, h.2.2⟩

end Sys2Proof.Machine
end

