-- ==== Sys2Proof/Laws/Encoder.lean ====
section
/-! SUPPORT. What an encode, a checksum and a frame leave, register by register, so that no proof
unfolds a run over 516 rows. -/

namespace Sys2Proof.Machine

section run
variable (h : HTable) (data : Bytes) (t : TxRegs)

/-- The rows of the encode of an information block. -/
theorem fecRun_eq :
    t.fecRun h data = ((t.loadInfo data).bitUnpack.accumRows h 516).bitPack := by
  simp only [TxRegs.fecRun]

theorem fecRun_info : (t.fecRun h data).info = data := by
  rw [fecRun_eq, TxRegs.bitPack_info, (accumRows_frame h 516 _).2.2.1]
  rfl

theorem fecRun_ibits : (t.fecRun h data).ibits = (List.range 2064).map (streamBit data) := by
  rw [fecRun_eq, TxRegs.bitPack_ibits, (accumRows_frame h 516 _).2.2.2.1]
  simp only [TxRegs.bitUnpack, TxRegs.loadInfo_info]

theorem fecRun_pbuf : (t.fecRun h data).pbuf = t.pbuf := by
  rw [fecRun_eq, TxRegs.bitPack_pbuf, (accumRows_frame h 516 _).1]
  rfl

theorem fecRun_crcr : (t.fecRun h data).crcr = t.crcr := by
  rw [fecRun_eq, TxRegs.bitPack_crcr, (accumRows_frame h 516 _).2.1]
  rfl

theorem fecRun_fbuf : (t.fecRun h data).fbuf = t.fbuf := by
  rw [fecRun_eq, TxRegs.bitPack_fbuf, (accumRows_frame h 516 _).2.2.2.2.2]
  rfl

theorem fecRun_pbits :
    (t.fecRun h data).pbits = ((t.loadInfo data).bitUnpack.accumRows h 516).pbits := by
  rw [fecRun_eq, TxRegs.bitPack_pbits]

theorem fecRun_prev :
    (t.fecRun h data).prev = ((t.loadInfo data).bitUnpack.accumRows h 516).prev := by
  rw [fecRun_eq, TxRegs.bitPack_prev]

theorem fecRun_pidx :
    (t.fecRun h data).pidx = ((t.loadInfo data).bitUnpack.accumRows h 516).pidx := by
  rw [fecRun_eq, TxRegs.bitPack_pidx]

/-- Byte `k` of the packed parity holds padded parity bits `8k .. 8k+7` (R137). -/
theorem bitPack_parb (u : TxRegs) :
    u.bitPack.parb = (List.range 65).map fun k =>
      packByte fun j => paddedParityBit u.pbits (8 * k + j) := by
  simp only [TxRegs.bitPack]

theorem fecRun_parb :
    (t.fecRun h data).parb = (List.range 65).map fun k =>
      packByte fun j => paddedParityBit (t.fecRun h data).pbits (8 * k + j) := by
  rw [fecRun_pbits, fecRun_eq, bitPack_parb]

end run

/-- After `n` rows `PBITS` holds at least `n` bits, whatever it held. -/
theorem accumRows_pbits_ge (h : HTable) (n : Nat) (t : TxRegs) :
    n ≤ (t.accumRows h n).pbits.length := by
  induction n with
  | zero => exact Nat.zero_le _
  | succ n ih =>
    rw [accumRows_succ]
    show n + 1 ≤ (memWrite _ n [_]).length
    simp [memWrite]
    omega

/-- A row writes its own parity bit and keeps the earlier ones (R134). -/
theorem accum_pbits (h : HTable) (t : TxRegs) (p q : Nat) (hp : p ≤ t.pbits.length) (hq : q ≤ p) :
    (t.accum h p).pbits[q]? =
      if q = p then some (rowSum h t.ibits p ^^ t.prev) else t.pbits[q]? := by
  show (memWrite t.pbits p [rowSum h t.ibits p ^^ t.prev])[q]? = _
  unfold memWrite
  rw [List.append_assoc]
  split
  · next e =>
    subst e
    rw [List.getElem?_append_right (by simp)]
    have : q - (t.pbits.take q).length = 0 := by simp; omega
    rw [this]
    rfl
  · next e =>
    rw [List.getElem?_append_left (by simp; omega), List.getElem?_take_of_lt (by omega)]

/-- `FEC_ENCODE` of an information block (R141). -/
theorem fecEncodeWith_of_length (h : HTable) (data : Bytes) (s : State) (hd : data.length = 258) :
    fecEncodeWith h data s =
      (s.withTx (s.tx.fecRun h data)).emit (.parity (s.tx.fecRun h data).parb) := by
  unfold fecEncodeWith
  rw [if_neg (by simpa using hd)]

/-- `FEC_ENCODE` of any other length (R131). -/
theorem fecEncodeWith_of_wrong_length (h : HTable) (data : Bytes) (s : State)
    (hd : data.length ≠ 258) :
    fecEncodeWith h data s = s.raise (.fecLen (BitVec.ofNat 16 data.length)) := by
  unfold fecEncodeWith
  rw [if_pos hd]

/-- The bytes of a frame without parity that `FRAME` emits (R154). -/
def builtFrame0 (data : Bytes) : Bytes :=
  frameBytes framePreamble (padTruncBytes data) (crc16 (padTruncBytes data)) []

/-- The bytes of a frame with parity that `FRAME` emits (R155). -/
def builtFrame1 (h : HTable) (data : Bytes) (t : TxRegs) : Bytes :=
  frameBytes framePreamble (padTruncBytes data) (crc16 (padTruncBytes data))
    (((t.padTrunc data).checksum).fecRun h
      (padTruncBytes data ++ le16Bytes (crc16 (padTruncBytes data)))).parb

theorem builtFrame0_length (data : Bytes) : (builtFrame0 data).length = 278 := by
  simp [builtFrame0, frameBytes_length, framePreamble, padTruncBytes_length]

theorem builtFrame1_length (h : HTable) (data : Bytes) (t : TxRegs) :
    (builtFrame1 h data t).length = 343 := by
  unfold builtFrame1
  rw [frameBytes_length, fecRun_eq, bitPack_parb_length, padTruncBytes_length]
  simp [framePreamble]

/-- What `FRAME` without parity leaves: one record, the frame (R156). -/
theorem frameWith_false (h : HTable) (data : Bytes) (s : State) :
    frameWith h false data s =
      (s.withTx ((s.tx.padTrunc data).checksum.assemble0)).emit (.frame (builtFrame0 data)) := by
  have e : memRead ((s.tx.padTrunc data).checksum.assemble0).fbuf 0 278 = builtFrame0 data := by
    rw [TxRegs.assemble0_fbuf, TxRegs.checksum_pbuf, TxRegs.checksum_crcr, TxRegs.padTrunc_pbuf]
    exact memRead_memWrite_start _ _ _ (builtFrame0_length data)
  simp only [frameWith, Bool.false_eq_true, if_false, e]

/-- What `FRAME` with parity leaves: one record, the frame (R156). -/
theorem frameWith_true (h : HTable) (data : Bytes) (s : State) :
    frameWith h true data s =
      (s.withTx ((s.tx.padTrunc data).checksum.assemble1 h)).emit
        (.frame (builtFrame1 h data s.tx)) := by
  have e : memRead ((s.tx.padTrunc data).checksum.assemble1 h).fbuf 0 343 =
      builtFrame1 h data s.tx := by
    rw [assemble1_eq]
    simp only
    rw [fecRun_pbuf, fecRun_crcr, TxRegs.checksum_pbuf, TxRegs.checksum_crcr, TxRegs.padTrunc_pbuf]
    exact memRead_memWrite_start _ _ _ (builtFrame1_length h data s.tx)
  simp only [frameWith, if_true, e]

end Sys2Proof.Machine
end

