-- ==== Sys2Proof/Laws/PerInstr.lean ====
section
/-! SUPPORT. A law stated of every instruction, one lemma for each constructor: the length of its
encoding is the length of its format (30_encoding.md R90, R91, R92, R97, R108). -/

namespace Sys2Proof.Laws.EncodeLength

/-- The lengths a format admits. -/
def admits : Format → Nat → Prop
  | .cmd, n => 4 ≤ n ∧ n < 65540
  | .slice, n => n = 256
  | .frame0, n => n = 278
  | .frame1, n => n = 343

/-- A well-formed instruction's encoding has a length its format admits. -/
def Statement (i : Instr) : Prop := i.wellFormed = true → admits i.format (encode i).length

/-- The length of a command (R108). -/
theorem cmdBytes_admits (op flags : Byte) (data : Bytes) (h : data.length < 65536) :
    admits .cmd (cmdBytes op flags data).length := by
  simp only [admits, cmdBytes, cmdHeader, List.length_append, List.length_cons, List.length_nil,
    be16Bytes_length]
  omega

theorem fecEncode (data : Bytes) : Statement (.fecEncode data) :=
  fun h => cmdBytes_admits _ _ _ (of_decide_eq_true h)
theorem crc16 (data : Bytes) : Statement (.crc16 data) :=
  fun h => cmdBytes_admits _ _ _ (of_decide_eq_true h)
theorem frame (fec : Bool) (data : Bytes) : Statement (.frame fec data) :=
  fun h => cmdBytes_admits _ _ _ (of_decide_eq_true h)
theorem rxBytes (now : TimeStamp) (data : Bytes) : Statement (.rxBytes now data) :=
  fun h => cmdBytes_admits _ _ _ (of_decide_eq_true h)
theorem rxSlice (now : TimeStamp) (data : Bytes) : Statement (.rxSlice now data) :=
  fun h => cmdBytes_admits _ _ _ (of_decide_eq_true h)
theorem reset : Statement .reset := fun _ => cmdBytes_admits _ _ _ (by decide)
theorem setConfig (cfg : Byte) (ncad : Half) : Statement (.setConfig cfg ncad) :=
  fun _ => cmdBytes_admits _ _ _ (by simp)
theorem getStatus : Statement .getStatus := fun _ => cmdBytes_admits _ _ _ (by decide)
theorem textMessage (length : Byte) (seq : Half) (rest : Bytes) :
    Statement (.textMessage length seq rest) := by
  intro h
  have hr : rest.length = 252 := by simpa [Instr.wellFormed] using h
  exact (textSlice_length length seq rest).trans (by omega)
theorem gpsTelemetry (fields : GpsFields) (rest : Bytes) :
    Statement (.gpsTelemetry fields rest) := by
  intro h
  have hr : rest.length = 221 := by simpa [Instr.wellFormed] using h
  exact (gpsSlice_length fields rest).trans (by omega)
theorem orientationTelemetry (week : Half) (towMs : Word) (leapS : Byte) (rest : Bytes) :
    Statement (.orientationTelemetry week towMs leapS rest) := by
  intro h
  have hr : rest.length = 248 := by simpa [Instr.wellFormed] using h
  exact (orientSlice_length week towMs leapS rest).trans (by omega)
theorem secPayloadTelemetry (subid : Byte) (data : Bytes) :
    Statement (.secPayloadTelemetry subid data) := by
  intro h
  have hr : data.length = 254 := by simpa [Instr.wellFormed] using h
  exact (secplSlice_length subid data).trans (by omega)
theorem imageTelemetry (rest : Bytes) : Statement (.imageTelemetry rest) := by
  intro h
  have hr : rest.length = 255 := by simpa [Instr.wellFormed] using h
  exact (imgtlmSlice_length rest).trans (by omega)
theorem ssdv (now : TimeStamp) (header : SsdvHeader) (rest : Bytes) :
    Statement (.ssdv now header rest) := by
  intro h
  have hr : rest.length = 245 := by simpa [Instr.wellFormed] using h
  exact (ssdvSlice_length header rest).trans (by omega)
theorem idle (rest : Bytes) : Statement (.idle rest) := by
  intro h
  have hr : rest.length = 255 := by simpa [Instr.wellFormed] using h
  exact (idleSlice_length rest).trans (by omega)
theorem frame0 (now : TimeStamp) (preamble payload : Bytes) (checksum : Half) :
    Statement (.frame0 now preamble payload checksum) := by
  intro h
  have hr : preamble.length = 16 ∧ payload.length = 256 := by simpa [Instr.wellFormed] using h
  exact (frameBytes_length preamble payload checksum []).trans (by simp only [hr.1, hr.2]; rfl)
theorem frame1 (now : TimeStamp) (preamble payload : Bytes) (checksum : Half) (parity : Bytes) :
    Statement (.frame1 now preamble payload checksum parity) := by
  intro h
  have hr : (preamble.length = 16 ∧ payload.length = 256) ∧ parity.length = 65 := by
    simpa [Instr.wellFormed] using h
  exact (frameBytes_length preamble payload checksum parity).trans
    (by simp only [hr.1.1, hr.1.2, hr.2])

end Sys2Proof.Laws.EncodeLength
end

