-- ==== Sys2Proof/Tests/Slice0.lean ====
section
/-! SUPPORT. Tests: ill-formed terms refused, words written out from the encoding tables, the reset
state, one small step of each instruction with results from spec/95_test_vectors.md, and for each
statement with hypotheses a state and operands that meet them. -/

set_option Elab.async false
set_option maxRecDepth 10000

namespace Sys2Proof.Tests

open Sys2Proof.Machine

/-! ### Helpers -/

/-- The state after a result that is a next state. -/
def final : Result → State
  | .next s => s
  | .fault _ => State.reset
  | .refused _ => State.reset

/-- The reset state with one offer at the port. -/
def offered (bytes : Bytes) : State := offerFirst .zero bytes State.reset

/-- The reset state set to receive frames without parity. -/
def rx0 : State := { State.reset with cfg := 0x00 }

/-- Vector PT-1: the text packet "HI". -/
def sliceHi : Bytes := [0x00, 0x02, 0x00, 0x07, 0x48, 0x49] ++ rep 0x55 250

/-- The callsign code of VK5QI (CS-14). -/
def codeVK : Word := 0x0378D563

/-- The slices `SSDV(code, id, k)` of the vectors. -/
def ssdvHeader (code : Word) (id : Byte) (k : Half) : SsdvHeader :=
  ⟨0x66, code, id, k, 0x28, 0x1E⟩

/-- An open context of one packet (vector PT-10). -/
def ctxVK : Context := ⟨0, codeVK, 1, .zero, ssdvSlice (ssdvHeader codeVK 0 0) (rep 0 245)⟩

/-- The reset state with that context open. -/
def openVK : State := State.reset.withRsm (.accumulating ctxVK)

/-- Table T1 of spec/95_test_vectors.md section 3, 0-based. -/
def tableT1 : HTable := fun p i => ⟨(12 * p + i) % 2064, Nat.mod_lt _ (by decide)⟩

/-- Table T2. -/
def tableT2 : HTable := fun p i => ⟨(37 * p + 173 * i + 5 * p * i) % 2064, Nat.mod_lt _ (by decide)⟩

/-- Working registers with the block of vectors F1-3 and F2-3 unpacked. -/
def unpacked : TxRegs :=
  (TxRegs.reset.loadInfo ((List.range 256).map (BitVec.ofNat 8) ++ [0x00, 0x00])).bitUnpack

/-! ### Ill-formed terms -/

theorem test_wf_data_too_long : (Instr.crc16 (rep 0 65536)).wellFormed = false := by
  simp only [Instr.wellFormed, dataFits, rep_length]; decide
theorem test_wf_fec_data_too_long : (Instr.fecEncode (rep 0 65536)).wellFormed = false := by
  simp only [Instr.wellFormed, dataFits, rep_length]; decide
theorem test_wf_frame_data_too_long : (Instr.frame true (rep 0 65536)).wellFormed = false := by
  simp only [Instr.wellFormed, dataFits, rep_length]; decide
theorem test_wf_bytes_too_long : (Instr.rxBytes .zero (rep 0 65536)).wellFormed = false := by
  simp only [Instr.wellFormed, dataFits, rep_length]; decide
theorem test_wf_slice_data_too_long : (Instr.rxSlice .zero (rep 0 65536)).wellFormed = false := by
  simp only [Instr.wellFormed, dataFits, rep_length]; decide
theorem test_wf_longest_data : (Instr.crc16 (rep 0 65535)).wellFormed = true := by
  simp only [Instr.wellFormed, dataFits, rep_length]; decide
theorem test_wf_text : (Instr.textMessage 0 0 (rep 0 251)).wellFormed = false := by decide +kernel
theorem test_wf_gps :
    (Instr.gpsTelemetry ⟨0, 0, 0, 0, 0, 0, 0, 0, 0, 0, 0, 0⟩ (rep 0 222)).wellFormed = false := by
  decide +kernel
theorem test_wf_orientation : (Instr.orientationTelemetry 0 0 0 (rep 0 247)).wellFormed = false := by
  decide +kernel
theorem test_wf_sec_payload : (Instr.secPayloadTelemetry 0 (rep 0 255)).wellFormed = false := by
  decide +kernel
theorem test_wf_image : (Instr.imageTelemetry (rep 0 256)).wellFormed = false := by decide +kernel
theorem test_wf_ssdv : (Instr.ssdv .zero ⟨0, 0, 0, 0, 0, 0⟩ (rep 0 244)).wellFormed = false := by decide +kernel
theorem test_wf_idle : (Instr.idle []).wellFormed = false := by decide +kernel
theorem test_wf_frame0_preamble : (Instr.frame0 .zero (rep 0 15) (rep 0 256) 0).wellFormed = false := by
  decide +kernel
theorem test_wf_frame0_payload : (Instr.frame0 .zero (rep 0 16) (rep 0 255) 0).wellFormed = false := by
  decide +kernel
theorem test_wf_frame1_preamble :
    (Instr.frame1 .zero (rep 0 17) (rep 0 256) 0 (rep 0 65)).wellFormed = false := by decide +kernel
theorem test_wf_frame1_payload :
    (Instr.frame1 .zero (rep 0 16) (rep 0 257) 0 (rep 0 65)).wellFormed = false := by decide +kernel
theorem test_wf_frame1_parity :
    (Instr.frame1 .zero (rep 0 16) (rep 0 256) 0 (rep 0 64)).wellFormed = false := by decide +kernel

/-! ### Words written out from the encoding tables -/

theorem test_decode_fec_encode :
    decode .cmd .zero [0x01, 0x00, 0x00, 0x02, 0xAA, 0xBB] = .ok (.fecEncode [0xAA, 0xBB]) := by
  decide +kernel
/-- `CRC16 "123456789"`, section 2 of the vectors. -/
theorem test_decode_crc16 :
    decode .cmd .zero [0x02, 0x00, 0x00, 0x09, 0x31, 0x32, 0x33, 0x34, 0x35, 0x36, 0x37, 0x38, 0x39] =
      .ok (.crc16 [0x31, 0x32, 0x33, 0x34, 0x35, 0x36, 0x37, 0x38, 0x39]) := by decide +kernel
/-- FR-1 and FR-2: the flag bit `fec`. -/
theorem test_decode_frame :
    decode .cmd .zero [0x03, 0x00, 0x00, 0x01, 0x07] = .ok (.frame false [0x07]) ∧
    decode .cmd .zero [0x03, 0x01, 0x00, 0x01, 0x07] = .ok (.frame true [0x07]) ∧
    decode .cmd .zero [0x03, 0x02, 0x00, 0x00] = .error (.illegalHeader 0x03020000) := by
  decide +kernel
theorem test_decode_rx_bytes (now : TimeStamp) :
    decode .cmd now [0x10, 0x00, 0x00, 0x03, 0xAB, 0xCD, 0xEF] =
      .ok (.rxBytes now [0xAB, 0xCD, 0xEF]) := rfl
theorem test_decode_rx_slice (now : TimeStamp) :
    decode .cmd now [0x11, 0x00, 0x00, 0x01, 0x56] = .ok (.rxSlice now [0x56]) := rfl
theorem test_decode_reset :
    decode .cmd .zero [0x20, 0x00, 0x00, 0x00] = .ok .reset ∧
    decode .cmd .zero [0x20, 0x00, 0x00, 0x01, 0x00] = .error (.illegalHeader 0x20000001) := by
  decide +kernel
/-- SY-2: `NCAD` is big-endian. -/
theorem test_decode_set_config :
    decode .cmd .zero [0x21, 0x00, 0x00, 0x03, 0x00, 0x01, 0x02] = .ok (.setConfig 0x00 258) ∧
    decode .cmd .zero [0x21, 0x00, 0x00, 0x02, 0x00, 0x00] = .error (.illegalHeader 0x21000002) := by
  decide +kernel
theorem test_decode_get_status :
    decode .cmd .zero [0x22, 0x00, 0x00, 0x00] = .ok .getStatus ∧
    decode .cmd .zero [0x22, 0x80, 0x00, 0x00] = .error (.illegalHeader 0x22800000) := by
  decide +kernel
/-- SY-2e: operation codes of no row. -/
theorem test_decode_reserved_ops :
    [0x7F000000, 0x00000000, 0x04000000, 0x12000000, 0x23000000].map opOfHeader =
      [none, none, none, none, none] := by decide +kernel
/-- PT-1: `length = 2`, `seq = 7`. -/
theorem test_decode_text :
    decodeSlice .zero sliceHi = .ok (.textMessage 2 7 ([0x48, 0x49] ++ rep 0x55 250)) := by
  decide +kernel
/-- PT-5 with every field of the layout different. -/
theorem test_decode_gps :
    decodeSlice .zero ([0x01, 0x08, 0x9A, 0x00, 0x01, 0xE2, 0x40, 0x12, 1, 2, 3, 4, 5, 6, 7, 8, 9, 10, 11,
        12, 13, 14, 15, 16, 17, 18, 19, 20, 21, 22, 23, 24, 25, 26, 27] ++ rep 0x55 221) =
      .ok (.gpsTelemetry ⟨2202, 123456, 18, 0x01020304, 0x05060708, 0x090A0B0C, 0x0D0E0F10,
        0x11121314, 0x15161718, 25, 26, 27⟩ (rep 0x55 221)) := by decide +kernel
theorem test_decode_orientation :
    decodeSlice .zero ([0x02, 0x12, 0x34, 0x00, 0x00, 0x01, 0x02, 0x11] ++ rep 0 248) =
      .ok (.orientationTelemetry 0x1234 0x102 0x11 (rep 0 248)) := by decide +kernel
/-- PT-7. -/
theorem test_decode_sec_payload :
    decodeSlice .zero ([0x03, 0x07, 0xDE, 0xAD] ++ rep 0x55 252) =
      .ok (.secPayloadTelemetry 7 ([0xDE, 0xAD] ++ rep 0x55 252)) := by decide +kernel
theorem test_decode_image :
    decodeSlice .zero (0x54 :: rep 0 255) = .ok (.imageTelemetry (rep 0 255)) := by decide +kernel
/-- The example of R235. -/
theorem test_decode_ssdv (now : TimeStamp) :
    decodeSlice now ([0x55, 0x66, 0x03, 0x78, 0xD5, 0x63, 0x00, 0x00, 0x02, 0x28, 0x1E] ++
        rep 0 245) =
      .ok (.ssdv now ⟨0x66, codeVK, 0, 2, 40, 30⟩ (rep 0 245)) := rfl
theorem test_decode_idle : decodeSlice .zero (rep 0x56 256) = .ok (.idle (rep 0x56 255)) := by
  decide +kernel
/-- PT-11: the reserved codes next to the defined ones. -/
theorem test_decode_reserved_types :
    [0x04, 0x53, 0x57, 0xFF, 0x41].map packetTypeOf = [none, none, none, none, none] := by decide
theorem test_decode_slice_length :
    decodeSlice .zero (rep 0x56 255) = .error (.wrongLength 255) := by decide +kernel
/-- FR-1, byte by byte (R91): the checksum low byte first. -/
theorem test_decode_frame0 :
    decodeFrame false .zero (rep 0x55 16 ++ [0xAB, 0xCD, 0xEF, 0x01] ++ sliceHi ++ [0x81, 0xBC]) =
      .ok (.frame0 .zero (rep 0x55 16) sliceHi 0xBC81) := by decide +kernel
/-- FR-2, byte by byte (R92). -/
theorem test_decode_frame1 :
    decodeFrame true .zero (rep 0x55 16 ++ [0xAB, 0xCD, 0xEF, 0x01] ++ sliceHi ++ [0x81, 0xBC] ++
        ([0x7F] ++ rep 0xFF 64)) =
      .ok (.frame1 .zero (rep 0x55 16) sliceHi 0xBC81 ([0x7F] ++ rep 0xFF 64)) := by decide +kernel
theorem test_decode_frame_uw :
    decodeFrame false .zero (rep 0x55 16 ++ [0xAB, 0xCD, 0xEF, 0x00] ++ rep 0x55 258) =
      .error .noUniqueWord := by decide +kernel
/-- The words of the opcode table, from its match fields. -/
theorem test_table_words :
    decodeTableWord 32 0x01000000 = some (.fecEncode []) ∧
    decodeTableWord 32 0x03010002 = some (.frame true [0, 0]) ∧
    decodeTableWord 32 0x21000003 = some (.setConfig 0 0) ∧
    decodeTableWord 8 0x55 = some (.ssdv .zero ⟨0, 0, 0, 0, 0, 0⟩ (rep 0 245)) ∧
    decodeTableWord 160 0x55555555555555555555555555555555ABCDEF01 =
      some (.frame1 .zero (rep 0x55 16) (rep 0 256) 0 (rep 0 65)) ∧
    decodeTableWord 8 0x57 = none := by decide +kernel

/-! ### Reset -/

/-- The reset column of R39. -/
theorem test_reset_registers :
    State.reset.cfg = 0x01 ∧ State.reset.ncad = 0 ∧ State.reset.esticky = 0 ∧
    State.reset.rxfState = .hunt ∧ State.reset.rsm = .noImage ∧ State.reset.out = [] := by
  decide

/-! ### One step of each instruction -/

/-- R131: `FEC_ENCODE 00*257` emits `ERROR(0x02, 0x0101)`. -/
theorem test_fec_encode_length :
    (final (execFecEncode (rep 0 257) State.reset)).out = [.error 0x02 (.length 0x0101)] := by
  decide +kernel
/-- F1-3: the first 16 parity bits under T1. -/
theorem test_fec_rows_t1 :
    ((unpacked.accumRows tableT1 16).pbits.take 16) =
      [false, false, false, true, true, true, true, false,
       false, false, true, true, false, false, false, false] := by decide +kernel
/-- F2-3: the first 16 parity bits under T2. -/
theorem test_fec_rows_t2 :
    ((unpacked.accumRows tableT2 16).pbits.take 16) =
      [false, false, true, false, false, true, false, false,
       false, false, false, true, true, false, false, false] := by decide +kernel
/-- R137: eight parity bits pack to `0x1E`, and the last byte ends in zeros. -/
theorem test_bit_pack :
    (({ TxRegs.reset with
        pbits := [false, false, false, true, true, true, true, false] ++ rep true 508 }).bitPack.parb
      = [0x1E] ++ rep 0xFF 63 ++ [0xF0]) := by decide +kernel
/-- CRC-2: `CRC16` of no bytes. -/
theorem test_crc16_empty :
    (final (execCrc16 [] State.reset)).out = [.crc 0xFF 0xFF] := by decide +kernel
/-- CRC-1: the check value, low byte first. -/
theorem test_crc16_check_value :
    (final (execCrc16 [0x31, 0x32, 0x33, 0x34, 0x35, 0x36, 0x37, 0x38, 0x39] State.reset)).out =
      [.crc 0xB1 0x29] := by decide +kernel
/-- FR-1: padding, checksum CRC-11 low byte first. -/
theorem test_frame_without_parity :
    (final (execFrame false [0x00, 0x02, 0x00, 0x07, 0x48, 0x49] State.reset)).out =
      [.frame (rep 0x55 16 ++ [0xAB, 0xCD, 0xEF, 0x01] ++ sliceHi ++ [0x81, 0xBC])] := by
  decide +kernel
/-- FR-4b: two bytes beyond 256 are dropped. -/
theorem test_frame_truncates :
    padTruncBytes ((List.range 256).map (BitVec.ofNat 8) ++ [0xAA, 0xBB]) =
      (List.range 256).map (BitVec.ofNat 8) := by decide +kernel
/-- RX-2: a false start, then the unique word at the eighth byte. -/
theorem test_rx_bytes_hunts :
    let t := final (execRxBytes .zero [0x00, 0xAB, 0xCD, 0xAB, 0xAB, 0xCD, 0xEF, 0x01] rx0)
    (t.rxfState, t.rxfWin, t.rxfCnt, t.rxfLen, t.out) =
      (.capture, 0xABCDEF01, 0, 258, []) := by decide +kernel
/-- The smallest `E_CRC` of section 9. -/
theorem test_rx_bytes_bad_checksum :
    let t := final (execRxBytes .zero ([0xAB, 0xCD, 0xEF, 0x01] ++ rep 0 258) rx0)
    (t.rxfState, t.rxfWin, t.rxfCnt, t.esticky, t.elast, t.out) =
      (.hunt, 0, 0, 0x04, 0x03, [.error 0x03 (.checksums 0x41E8 0)]) := by decide +kernel
/-- PT-12: the length is tested before the type. -/
theorem test_rx_slice_length :
    let t := final (execRxSlice .zero (0x41 :: rep 0x55 254) State.reset)
    (t.esticky, t.elast, t.out) = (0x08, 0x04, [.error 0x04 (.length 255)]) := by decide +kernel
/-- R185: an unrecognized type. -/
theorem test_rx_slice_type :
    let t := final (execRxSlice .zero ([0x41, 0x42, 0x43] ++ rep 0x55 253) State.reset)
    (t.esticky, t.elast, t.out) = (0x10, 0x05, [.error 0x05 (.typeByte 0x41)]) := by decide +kernel
/-- SY-6: an open context is dropped with no `FINAL`. -/
theorem test_reset_drops_context :
    let t := final (execReset { openVK with cfg := 0, esticky := 0x40, rxfWin := 7 })
    (t.cfg, t.esticky, t.rxfWin, t.rsm, t.out) = (0x01, 0, 0, .noImage, []) := by decide +kernel
/-- SY-2: both registers. -/
theorem test_set_config :
    let t := final (execSetConfig 0x00 258 State.reset)
    (t.cfg, t.ncad, t.out) = (0x00, 258, []) := by decide +kernel
/-- SY-2b: a reserved bit; neither register. -/
theorem test_set_config_reserved :
    let t := final (execSetConfig 0x02 5 State.reset)
    (t.cfg, t.ncad, t.esticky, t.out) =
      (0x01, 0, 0x01, [.error 0x01 (.header 0x21000003)]) := by decide +kernel
/-- SY-1. -/
theorem test_get_status :
    (final (execGetStatus State.reset)).out = [.status 0x01 0 0 0 .hunt none] := by decide +kernel
/-- The image part of a `STATUS` record. -/
theorem test_get_status_image :
    (final (execGetStatus openVK)).out =
      [.status 0x01 0 0 0 .hunt (some ⟨0, codeVK, 1⟩)] := by decide +kernel
/-- PT-1. -/
theorem test_text_message :
    (final (execTextMessage 2 7 ([0x48, 0x49] ++ rep 0x55 250) State.reset)).out =
      [.telem 0x00 sliceHi] := by decide +kernel
/-- PT-4: `length = 253`. -/
theorem test_text_message_too_long :
    let t := final (execTextMessage 0xFD 0 (rep 0 252) State.reset)
    (t.esticky, t.elast, t.out) = (0x20, 0x06, [.error 0x06 (.typeAndField 0x00 0xFD)]) := by
  decide +kernel
/-- PT-5. -/
theorem test_gps_telemetry :
    (final (execGpsTelemetry ⟨2202, 123456, 18, 0, 0, 0, 0, 0, 0, 0, 0, 0⟩ (rep 0x55 221)
        State.reset)).out =
      [.telem 0x01 ([0x01, 0x08, 0x9A, 0x00, 0x01, 0xE2, 0x40, 0x12] ++ rep 0 27 ++ rep 0x55 221)]
      := by decide +kernel
/-- PT-6. -/
theorem test_orientation_telemetry :
    (final (execOrientationTelemetry 0 0 0 (rep 0 248) State.reset)).out =
      [.telem 0x02 (0x02 :: rep 0 255)] := by decide +kernel
/-- PT-7. -/
theorem test_sec_payload_telemetry :
    (final (execSecPayloadTelemetry 7 ([0xDE, 0xAD] ++ rep 0x55 252) State.reset)).out =
      [.telem 0x03 ([0x03, 0x07, 0xDE, 0xAD] ++ rep 0x55 252)] := by decide +kernel
/-- PT-8. -/
theorem test_image_telemetry :
    (final (execImageTelemetry (rep 0 255) openVK)).out = [.telem 0x54 (0x54 :: rep 0 255)] := by
  decide +kernel
/-- PT-10: the first slice opens a context with its `NOW`. -/
theorem test_ssdv_opens (now : TimeStamp) :
    (final (execSsdv now (ssdvHeader codeVK 0 0) (rep 0 245) State.reset)).rsm =
      .accumulating { ctxVK with ctxTs := now } := rfl
/-- RS-5: another callsign with the same image id is a boundary. -/
theorem test_ssdv_boundary :
    let t := final (execSsdv .zero (ssdvHeader 0x9C752043 0 0) (rep 0 245) openVK)
    t.out = [.final 0 codeVK 1 .zero ctxVK.ibuf] ∧
      (Rsm.status t.rsm) = some ⟨0, 0x9C752043, 1⟩ := by decide +kernel
/-- R217: the `FINAL` record carries the `NOW` that opened the image, whatever the later one. -/
theorem test_ssdv_final_time (opened later : TimeStamp) :
    (final (execSsdv later (ssdvHeader codeVK 1 0) (rep 0 245)
        (State.reset.withRsm (.accumulating { ctxVK with ctxTs := opened })))).out =
      [.final 0 codeVK 1 opened ctxVK.ibuf] := rfl
/-- RS-9: a full buffer of one packet. -/
theorem test_ssdv_overflow :
    (handleSsdv (some 1) .zero (ssdvSlice (ssdvHeader codeVK 0 1) (rep 0 245)) openVK).out =
      [.error 0x08 (.sliceKey 0 codeVK)] := by decide +kernel
/-- RS-3: with `NCAD = 2` the second packet gives a preview. -/
theorem test_ssdv_preview :
    (handleSsdv none .zero (ssdvSlice (ssdvHeader codeVK 0 1) (rep 0 245))
        { openVK with ncad := 2 }).out =
      [.preview 0 codeVK 2 (ctxVK.ibuf ++ ssdvSlice (ssdvHeader codeVK 0 1) (rep 0 245))] := by
  decide +kernel
/-- RS-7: codes 454 and 494 are one callsign; the opening code stays. -/
theorem test_ssdv_same_callsign :
    Rsm.status (handleSsdv none .zero (ssdvSlice (ssdvHeader 494 9 1) (rep 0 245))
      (final (execSsdv .zero (ssdvHeader 454 9 0) (rep 0 245) State.reset))).rsm =
        some ⟨9, 454, 2⟩ := by decide +kernel
/-- PT-9b. -/
theorem test_idle : execIdle openVK = .next openVK := rfl
/-- RX-1: the frame FR-1 is stripped and its payload delivered. -/
theorem test_frame0 :
    let t := final (execFrame0 .zero (rep 0x55 16) sliceHi 0xBC81 rx0)
    (t.rxfState, t.rxfWin, t.rxfCnt, t.rxfLen, t.out) =
      (.hunt, 0, 0, 258, [.telem 0x00 sliceHi]) := by decide +kernel
/-- RX-7: one payload byte is wrong, the checksums differ, and the frame is dropped. -/
theorem test_frame0_bad_checksum :
    (final (execFrame0 .zero (rep 0x55 16) ([0x00, 0x02, 0x00, 0x07, 0x48, 0x48] ++ rep 0x55 250)
      0xBC81 rx0)).out = [.error 0x03 (.checksums 0x09BD 0xBC81)] := by decide +kernel
/-- RX-8: the parity is not read. -/
theorem test_frame1 :
    let t := final (execFrame1 .zero (rep 0x55 16) sliceHi 0xBC81 (rep 0x12 65) State.reset)
    (t.rxfState, t.rxfWin, t.rxfCnt, t.rxfLen, t.out) =
      (.hunt, 0, 0, 323, [.telem 0x00 sliceHi]) := by decide +kernel
/-- R264: `7f 00 00 00`. -/
theorem test_illegal_command :
    let t := final (step (offered [0x7F, 0x00, 0x00, 0x00]))
    (t.esticky, t.elast, t.out, t.port) =
      (0x01, 0x01, [.error 0x01 (.header 0x7F000000)], []) := by decide +kernel
/-- RX-12: the data of an illegal command is consumed; the next command follows. -/
theorem test_illegal_command_data :
    let t := final (step (offered [0x10, 0x01, 0x00, 0x01, 0x00, 0x22, 0x00, 0x00, 0x00]))
    (t.rxfWin, t.out, t.port) =
      (0, [.error 0x01 (.header 0x10010001)], [⟨.zero, [0x22, 0x00, 0x00, 0x00]⟩]) := by
  decide +kernel
/-- CS-14, CS-16, CS-19, CS-20. -/
theorem test_call_decode :
    callDecode codeVK = ['V', 'K', '5', 'Q', 'I'] ∧
    callDecode 0x129E0666 = ['A', 'B', 'C', '-', '1', '2'] ∧
    callDecode 0xFFFFFFFF = ['B', 'I', 'U', 'O', 'X', '0', '0'] ∧
    callDecode 0x55555555 = ['4', 'U', 'K', '8', 'Z', '-'] := by decide +kernel
/-- The notation: `IDLE_FRAME` and `SET_CONFIG rxfec=0, ncad=2` (R116, R117). -/
theorem test_lines :
    encode (Line.instr 0 (.setConfig false 2)) = [0x21, 0x00, 0x00, 0x03, 0x00, 0x00, 0x02] ∧
    Line.instr 0 (.idleFrame true) = .frame true (rep 0x56 256) ∧
    itemBytes [.byte 0x00, .ascii ['H', 'I'], .range 3 5, .copies 0x55 2] =
      [0x00, 0x48, 0x49, 3, 4, 5, 0x55, 0x55] := by decide +kernel
/-- P1: `LOOPBACK fec=0` of the text packet. -/
theorem test_loopback :
    (loopback tableT1 none .zero false [0x00, 0x02, 0x00, 0x07, 0x48, 0x49] State.reset).out.drop 1 =
      [.telem 0x00 sliceHi] := by decide +kernel

/-! ### Witnesses: for each statement with hypotheses, values that meet them all -/

open Sys2Proof.Spec

/-- A result is a next state. -/
def isNext : Result → Bool
  | .next _ => true
  | .fault _ => false
  | .refused _ => false

theorem next_final {r : Result} (h : isNext r = true) : r = .next (final r) := by
  cases r <;> simp_all [isNext, final]

/-- A state whose first command is another than `RESET`. -/
theorem no_reset_of {s : State} {f : Fetched} {i : Instr} (hf : fetch s = some f)
    (hd : decodeCommand f.now f.header f.data = .ok i) (hi : i ≠ .reset) :
    ¬ TakesCommand s .reset := by
  rintro ⟨g, hg, he⟩
  rw [hf] at hg
  cases hg
  rw [hd] at he
  exact hi (Except.ok.inj he)

/-- A state whose first command has an illegal header. -/
theorem no_command_of {s : State} {f : Fetched} {e : DecodeError} (hf : fetch s = some f)
    (hd : decodeCommand f.now f.header f.data = .error e) (i : Instr) : ¬ TakesCommand s i := by
  rintro ⟨g, hg, he⟩
  rw [hf] at hg
  cases hg
  rw [hd] at he
  cases he

/-- An undefined operation offered after reset. -/
def illegal : State := offered [0x7F, 0x00, 0x00, 0x00]

theorem illegal_fetch : fetch illegal = some ⟨.zero, 0x7F000000, [], State.reset⟩ := by
  decide +kernel

theorem illegal_takes_no_command (i : Instr) : ¬ TakesCommand illegal i :=
  no_command_of illegal_fetch
    (by decide : decodeCommand .zero 0x7F000000 [] = .error (.illegalHeader 0x7F000000)) i

/-- A `GET_STATUS` offered to a state. -/
def asked (s : State) : State := offerFirst .zero [0x22, 0x00, 0x00, 0x00] s

theorem asked_takes_no_reset {s : State} (h : s.port = []) :
    ¬ TakesCommand (asked s) .reset := by
  refine no_reset_of (f := ⟨.zero, 0x22000000, [], s.withPort []⟩) (i := .getStatus) ?_
    (by decide : decodeCommand .zero 0x22000000 [] = .ok .getStatus) (by simp)
  simp only [fetch, asked, offerFirst, h]
  rfl

/-- A capture of `cnt` bytes of a frame of `len`. -/
def capturing (cnt len : BitVec 9) : State :=
  { State.reset with rxfState := .capture, rxfWin := 0xABCDEF01, rxfCnt := cnt, rxfLen := len }

theorem witness_CommandsDecodeTheirEncoding :
    ((Instr.rxBytes .zero [1]).wellFormed = true ∧ (Instr.rxBytes .zero [1]).format = .cmd ∧
      ∀ n, (Instr.rxBytes .zero [1]).now? = some n → n = .zero) ∧
    ((Instr.crc16 []).wellFormed = true ∧ (Instr.crc16 []).format = .cmd ∧
      ∀ n, (Instr.crc16 []).now? = some n → n = .zero) :=
  ⟨⟨rfl, rfl, fun _ h => (Option.some.inj h).symm⟩, rfl, rfl, fun _ h => nomatch h⟩

theorem witness_SlicesDecodeTheirEncoding :
    (Instr.ssdv .zero (ssdvHeader codeVK 0 2) (rep 0 245)).wellFormed = true ∧
    (Instr.ssdv .zero (ssdvHeader codeVK 0 2) (rep 0 245)).format = .slice ∧
    ∀ n, (Instr.ssdv .zero (ssdvHeader codeVK 0 2) (rep 0 245)).now? = some n → n = .zero :=
  ⟨by decide +kernel, rfl, fun _ h => (Option.some.inj h).symm⟩

theorem witness_FramesDecodeTheirEncoding :
    (Instr.frame0 .zero (rep 0x55 16) (rep 0x56 256) 0xBC81).wellFormed = true ∧
    (Instr.frame1 .zero (rep 0x55 16) (rep 0x56 256) 0xBC81 (rep 0xF0 65)).wellFormed = true := by
  decide +kernel

theorem witness_DecodingLosesNoByte :
    decodeSlice .zero (rep 0x56 256) = .ok (.idle (rep 0x56 255)) ∧
    decodeFrame false .zero (rep 0x55 16 ++ [0xAB, 0xCD, 0xEF, 0x01] ++ sliceHi ++ [0x81, 0xBC]) =
      .ok (.frame0 .zero (rep 0x55 16) sliceHi 0xBC81) ∧
    takeCommand [0x02, 0x00, 0x00, 0x01, 0x31, 0x22] = some ⟨0x02000001, [0x31], [0x22]⟩ ∧
    decodeCommand .zero 0x02000001 [0x31] = .ok (.crc16 [0x31]) :=
  ⟨test_decode_idle, test_decode_frame0, by decide +kernel⟩

theorem witness_HeadersDecodeExactlyWhenListed :
    (LegalHeader 0x03 1 5 ∧ LegalHeader 0x21 0 3 ∧ LegalHeader 0x20 0 0 ∧
      LegalHeader 0x01 0 0xFFFF) ∧
    ¬ LegalHeader 0x03 2 5 ∧ ¬ LegalHeader 0x21 0 2 ∧ ¬ LegalHeader 0x20 0 1 ∧
      ¬ LegalHeader 0x01 1 0 ∧ ¬ LegalHeader 0x04 0 0 := by
  refine ⟨⟨?_, ?_, ?_, ?_⟩, ?_, ?_, ?_, ?_, ?_⟩ <;> unfold LegalHeader <;> decide

theorem witness_StepRunsTheDecodedCommand :
    (offered [0x22, 0x00, 0x00, 0x00, 0x7F]).port = ⟨.zero, [0x22, 0x00, 0x00, 0x00, 0x7F]⟩ :: [] ∧
    takeCommand [0x22, 0x00, 0x00, 0x00, 0x7F] = some ⟨0x22000000, [], [0x7F]⟩ ∧
    decodeCommand .zero 0x22000000 [] = .ok .getStatus := by decide +kernel

theorem witness_StepWaitsForAWholeCommand :
    State.reset.port = [] ∧
    ((offered [0x22, 0x00, 0x00]).port = ⟨.zero, [0x22, 0x00, 0x00]⟩ :: [] ∧
      ([0x22, 0x00, 0x00] : Bytes).length < 4) ∧
    ((offered [0x02, 0x00, 0x00, 0x02, 0x31]).port =
        ⟨.zero, commandBytes 0x02 0x00 2 [0x31]⟩ :: [] ∧
      ([0x31] : Bytes).length < (2 : Half).toNat) := by decide +kernel

theorem witness_IllegalCommandsOnlyRaise :
    ¬ LegalHeader 0x10 1 1 ∧ ([0x00] : Bytes).length = (1 : Half).toNat ∧
    (offered [0x10, 0x01, 0x00, 0x01, 0x00, 0x22]).port =
      ⟨.zero, commandBytes 0x10 1 1 [0x00] ++ [0x22]⟩ :: [] := by
  unfold LegalHeader
  decide +kernel

theorem witness_PlacedSliceWordsRunTheirInstruction :
    decodeTableWord 8 0x56 = some (.idle (rep 0 255)) := by decide +kernel

theorem asked_legal : Legal Config.ibufCap (asked State.reset) where
  cfg := by decide
  errors := by decide
  recognizer := by decide
  reassembler := fun _ h => nomatch h
  memory := by decide +kernel

theorem asked_next : step (asked State.reset) = .next (final (step (asked State.reset))) :=
  next_final (by decide +kernel)

theorem witness_StepsKeepTheInvariant :
    Legal Config.ibufCap (asked State.reset) ∧
    step (asked State.reset) = .next (final (step (asked State.reset))) :=
  ⟨asked_legal, asked_next⟩

theorem witness_OutputOnlyGrows :
    step (asked State.reset) = .next (final (step (asked State.reset))) := asked_next

/-- A state in which a sticky bit is set and a `GET_STATUS` waits. -/
def askedSticky : State := asked { State.reset with esticky := 0x40, elast := 0x08 }

theorem witness_StickyBitsStayUntilReset :
    step askedSticky = .next (final (step askedSticky)) ∧ ¬ TakesCommand askedSticky .reset ∧
    askedSticky.esticky.getLsbD 6 = true :=
  ⟨next_final (by decide +kernel), asked_takes_no_reset rfl, by decide⟩

theorem witness_NoStickyBitMeansNoError :
    step (asked State.reset) = .next (final (step (asked State.reset))) ∧
    ¬ TakesCommand (asked State.reset) .reset ∧ ErrorFree (final (step (asked State.reset))) :=
  ⟨asked_next, asked_takes_no_reset rfl, by decide +kernel⟩

theorem witness_LastErrorIsTheLatestRaised :
    step (offered [0x7F, 0x00, 0x00, 0x00]) =
      .next (final (step (offered [0x7F, 0x00, 0x00, 0x00]))) ∧
    newRecords (offered [0x7F, 0x00, 0x00, 0x00])
        (final (step (offered [0x7F, 0x00, 0x00, 0x00]))) =
      [] ++ .error 0x01 (.header 0x7F000000) :: [] ∧
    ∀ r ∈ ([] : List Record), r.isError = false :=
  ⟨next_final (by decide +kernel), by decide +kernel, by simp⟩

theorem witness_OnlyResetClosesTheReassembler :
    (asked openVK).rsm = .accumulating ctxVK ∧
    step (asked openVK) = .next (final (step (asked openVK))) ∧
    ¬ TakesCommand (asked openVK) .reset :=
  ⟨rfl, next_final (by decide +kernel), asked_takes_no_reset rfl⟩

theorem witness_TableEntriesSelectInformationBits : TxRegs.reset.info.length = 258 := by
  decide +kernel

theorem witness_FecEncodeEmitsTheClosedFormParity : (rep 0x00 258 : Bytes).length = 258 := by
  decide +kernel

theorem witness_NeighbouringParityBitsCheckTheRows :
    (rep 0xFF 258 : Bytes).length = 258 ∧ (1 ≤ 1 ∧ 1 < 516) ∧ (1 ≤ 515 ∧ 515 < 516) := by
  decide +kernel

theorem witness_FecEncodeRefusesWrongLengths :
    (rep 0 257 : Bytes).length ≠ 258 ∧ (rep 0 259 : Bytes).length ≠ 258 ∧ ([] : Bytes).length ≠ 258 ∧
    (rep 0 258 : Bytes).length = 258 := by decide +kernel

theorem witness_EncoderIsLinear :
    (rep 0x0F 258 : Bytes).length = 258 ∧ (rep 0xF1 258 : Bytes).length = 258 := by decide +kernel

theorem witness_EncodeWorkingRegisters :
    (rep 0xA5 258 : Bytes).length = 258 ∧ 2063 < 2064 ∧ 515 < 516 := by decide +kernel

theorem witness_TransmitPathIsPure :
    Transmits (.fecEncode (rep 0 258)) ∧ Transmits (.crc16 []) ∧ Transmits (.frame true [7]) :=
  ⟨by simp only [Transmits, rep_length], trivial, trivial⟩

theorem witness_ByteInHunt :
    (State.reset.withPort []).rxfState = .hunt ∧
    (0xABCDEF01 : Word).toNat = ((0xFFABCDEF : Word).toNat * 256 + (0x01 : Byte).toNat) % 2 ^ 32 ∧
    (0xABCDEF00 : Word).toNat = ((0xFFABCDEF : Word).toNat * 256 + (0x00 : Byte).toNat) % 2 ^ 32 ∧
    (0xABCDEF01 : Word) = 0xABCDEF01 ∧ (0xABCDEF00 : Word) ≠ 0xABCDEF01 := by decide

theorem witness_ByteInCapture :
    ∀ s ∈ [capturing 0 258, capturing 256 258, capturing 258 323, capturing 321 323],
      s.rxfState = .capture ∧ s.rxfBuf.length = 323 ∧ s.rxfCnt.toNat < 323 ∧
        s.rxfCnt + 1 ≠ s.rxfLen := by decide +kernel

theorem witness_ByteThatEndsAFrame :
    ∀ s ∈ [capturing 257 258, capturing 322 323],
      s.rxfState = .capture ∧ s.rxfBuf.length = 323 ∧ s.rxfCnt.toNat < 323 ∧
        s.rxfCnt + 1 = s.rxfLen ∧
        s.rxfBuf.set s.rxfCnt.toNat 0xBC = s.rxfBuf.set s.rxfCnt.toNat 0xBC := by decide +kernel

theorem witness_FrameWithoutParityIsReceived :
    (Instr.frame0 .zero (rep 0x55 16) sliceHi 0xBC81).wellFormed = true ∧
    (0x01 : Byte) ∉ (rep 0x55 16 : Bytes) ∧ rx0.rxfState = .hunt ∧ rx0.cfg.getLsbD 0 = false := by
  decide +kernel

theorem witness_FrameWithParityIsReceived :
    (Instr.frame1 .zero (rep 0x55 16) sliceHi 0xBC81 (rep 0x12 65)).wellFormed = true ∧
    (0x01 : Byte) ∉ (rep 0x55 16 : Bytes) ∧ State.reset.rxfState = .hunt ∧
    State.reset.cfg.getLsbD 0 = true := by decide +kernel

theorem witness_ReceivedParityIsNeverRead :
    (Instr.frame1 .zero (rep 0x55 16) sliceHi 0xBC81 (rep 0x12 65)).wellFormed = true ∧
    (Instr.frame1 .zero (rep 0x55 16) sliceHi 0xBC81 (rep 0x34 65)).wellFormed = true ∧
    (0x01 : Byte) ∉ (rep 0x55 16 : Bytes) ∧ State.reset.rxfState = .hunt ∧
    State.reset.cfg.getLsbD 0 = true := by decide +kernel

theorem witness_FramedPayloadsAreDelivered : rx0.rxfState = .hunt := rfl

theorem witness_ConfigChangeSparesTheFrameInCapture :
    (capturing 250 258).rxfState = .capture ∧
    (capturing 250 258).rxfCnt < (capturing 250 258).rxfLen ∧
    ([1, 2, 3, 4, 5, 6, 7, 8] : Bytes).length ≤
      (capturing 250 258).rxfLen.toNat - (capturing 250 258).rxfCnt.toNat := by decide

theorem witness_SlicesOfWrongLengthAreRefused :
    (rep 0x56 255 : Bytes).length ≠ 256 ∧ (rep 0x56 257 : Bytes).length ≠ 256 ∧
    ([] : Bytes).length ≠ 256 := by decide +kernel

theorem witness_SliceCommandRunsItsPacketType :
    decodeSlice .zero sliceHi = .ok (.textMessage 2 7 ([0x48, 0x49] ++ rep 0x55 250)) :=
  test_decode_text

theorem witness_ReservedTypesAreRefused :
    ∀ b ∈ [(0x04 : Byte), 0x53, 0x57, 0xFF],
      (b :: rep 0 255).length = 256 ∧ ¬ KnownType (byteAt (b :: rep 0 255) 0) := by
  unfold KnownType
  decide +kernel

theorem witness_TextMessageIsDispatchedOrRefused :
    (252 : Byte).toNat ≤ 252 ∧ 252 < (253 : Byte).toNat := by decide

theorem witness_IdleChangesNothing : (rep 0x12 255 : Bytes).length = 255 := by decide +kernel

theorem witness_SsdvWithAnotherKeyIsABoundary :
    State.reset.rsm = .noImage ∧ openVK.rsm = .accumulating ctxVK ∧
    ctxVK.ibuf.length = 256 * ctxVK.pktCount ∧
    ¬ SameImage ctxVK (ssdvHeader codeVK 1 0) ∧ ¬ SameImage ctxVK (ssdvHeader 0x9C752043 0 0) := by
  unfold SameImage
  decide +kernel

theorem witness_SsdvWithTheSameKeyIsAppended :
    openVK.rsm = .accumulating ctxVK ∧ ctxVK.ibuf.length = 256 * ctxVK.pktCount ∧
    (rep 0 245 : Bytes).length = 245 ∧ SameImage ctxVK (ssdvHeader codeVK 0 1) := by
  unfold SameImage
  decide +kernel

theorem witness_OnlySsdvChangesTheReassembler :
    ((Instr.idle []).format = .slice ∧ ∀ now h rest, Instr.idle [] ≠ .ssdv now h rest) ∧
    ((Instr.crc16 []).format = .cmd ∧ Instr.crc16 [] ≠ .reset ∧
      (∀ now data, Instr.crc16 [] ≠ .rxBytes now data) ∧
      ∀ now data, Instr.crc16 [] ≠ .rxSlice now data) ∧
    ((rep 0x55 255 : Bytes).length ≠ 256 ∧ byteAt (rep 0x56 256) 0 ≠ 0x55) ∧
    ((∀ i, ¬ TakesCommand illegal i) ∧ step illegal = .next (final (step illegal))) ∧
    (State.reset.rxfState = .hunt ∧ (capturing 256 258).rxfCnt + 1 ≠ (capturing 256 258).rxfLen) ∧
    (∀ s ∈ [capturing 257 258, capturing 322 323],
      s.rxfState = .capture ∧ s.rxfBuf.length = 323 ∧ s.rxfCnt.toNat < 323 ∧
        s.rxfCnt + 1 = s.rxfLen ∧ byteAt (s.rxfBuf.set s.rxfCnt.toNat 0) 0 ≠ 0x55) ∧
    crc16 (((capturing 257 258).rxfBuf.set 257 0).take 256) ≠ (0x00 : Byte) ++ (0x00 : Byte) ∧
    (Instr.frame0 .zero [] [] 0).format = .frame0 ∧ (Instr.frame0 .zero [] [] 0).now? = some .zero ∧
    (Instr.frame1 .zero [] [] 0 []).format = .frame1 ∧
    (Instr.frame1 .zero [] [] 0 []).now? = some .zero :=
  ⟨⟨rfl, nofun⟩, ⟨rfl, nofun, nofun, nofun⟩, by decide +kernel,
    ⟨illegal_takes_no_command, next_final (by decide +kernel)⟩, by decide +kernel,
    by decide +kernel, by decide +kernel, rfl, rfl, rfl, rfl⟩

theorem witness_ReassemblerReadsOnlyTheKey :
    (ssdvHeader codeVK 0 1).code = (⟨0x67, codeVK, 0, 9, 0x10, 0x10⟩ : SsdvHeader).code ∧
    (ssdvHeader codeVK 0 1).imageId = (⟨0x67, codeVK, 0, 9, 0x10, 0x10⟩ : SsdvHeader).imageId ∧
    (rep 0 245 : Bytes).length = 245 ∧ (rep 1 245 : Bytes).length = 245 ∧
    openVK.rsm = .accumulating ctxVK ∧
    ∀ ctx, openVK.rsm = .accumulating ctx → ctx.ibuf.length = 256 * ctx.pktCount :=
  ⟨rfl, rfl, rep_length .., rep_length .., rfl, fun _ h => by cases h; decide +kernel⟩

theorem witness_ErrorsLeaveNoPartialEffect :
    (∀ i ∈ [Instr.textMessage 0xFD 0 [], .rxSlice .zero [], .fecEncode [], .setConfig 2 0],
      i.format = .slice ∨ (∃ now data, i = .rxSlice now data) ∨ (∃ data, i = .fecEncode data) ∨
        ∃ cfg ncad, i = .setConfig cfg ncad) ∧
    (fetch illegal = some ⟨.zero, 0x7F000000, [], State.reset⟩ ∧
      ∀ i, ¬ TakesCommand illegal i) ∧
    (capturing 257 258).rxfBuf.length = 323 ∧ (capturing 257 258).rxfCnt.toNat < 323 ∧
    (capturing 322 323).rxfBuf.length = 323 ∧ (capturing 322 323).rxfCnt.toNat < 323 :=
  ⟨by simp [Instr.format], ⟨illegal_fetch, illegal_takes_no_command⟩, by decide +kernel⟩

theorem witness_CallsignRoundTrip :
    ∀ ds ∈ [[], [14], [39, 0, 12, 5, 1, 39]],
      ds.length ≤ 6 ∧ (∀ d ∈ ds, d < 40) ∧ (ds.map callChar).getLast? ≠ some '-' := by
  decide +kernel

theorem witness_ResetCommandResets :
    ((1 : Byte) ≠ 0 ∨ (0 : Half) ≠ 0) ∧ ((0 : Byte) ≠ 0 ∨ (1 : Half) ≠ 0) := by decide

theorem witness_SetConfigWritesBothOrNeither :
    ((0 : Byte) = 0 ∨ (0 : Byte) = 1) ∧ ((1 : Byte) = 0 ∨ (1 : Byte) = 1) ∧
    ((2 : Byte) ≠ 0 ∧ (2 : Byte) ≠ 1) ∧ ((1 : Byte) ≠ 0 ∨ (3 : Half) ≠ 3) ∧
    ((0 : Byte) ≠ 0 ∨ (2 : Half) ≠ 3) := by decide

theorem witness_GetStatusReportsAndChangesNothing :
    State.reset.rsm = .noImage ∧ openVK.rsm = .accumulating ctxVK ∧
    ((0x80 : Byte) ≠ 0 ∨ (0 : Half) ≠ 0) ∧ ((0 : Byte) ≠ 0 ∨ (1 : Half) ≠ 0) :=
  ⟨rfl, rfl, by decide, by decide⟩

end Sys2Proof.Tests
end

section
/-! The scope of the block (00_scope.md): a step carries out the command decoded from the port, and
the receive path writes only its own registers. -/

namespace Sys2Proof.Machine

/-- A fetched command that decodes is carried out (R7, R260). -/
theorem step_of_fetch_of_decode (s : State) (f : Fetched) (i : Instr) (hf : fetch s = some f)
    (hi : decodeCommand f.now f.header f.data = .ok i) : step s = exec i f.state := by
  simp only [step, hf, hi]

/-- `RX_BYTES` runs its bytes through the recognizer (R171). -/
theorem exec_rxBytes (now : TimeStamp) (data : Bytes) (s : State) :
    exec (.rxBytes now data) s = .next (rxRun Config.ibufCap now data s) := rfl

end Sys2Proof.Machine

namespace Sys2Proof.Proofs

open Sys2Proof.Machine

/-- Settles O7: the whole command at the head of the port is the one fetched, and the step is the
meaning of what is fetched and decoded. -/
theorem stepRunsTheDecodedCommand : Obligations.StepRunsTheDecodedCommand := by
  unfold Obligations.StepRunsTheDecodedCommand
  intro s offer rest c i hport htake hdecode
  have hfetch := fetch_of_port s offer rest c hport htake
  have hstep := step_of_fetch_of_decode s _ i hfetch hdecode
  exact hstep

/-- Settles O34: each register outside the receive path is kept by a run of bytes, and all that the
run does to `OUT` is to report. -/
theorem receivedBytesFrame : Obligations.ReceivedBytesFrame := by
  intro now data s
  exact ⟨rxRun Config.ibufCap now data s, exec_rxBytes now data s, rxRun_cfg s _ now data,
    rxRun_ncad s _ now data, rxRun_tx s _ now data, rxRun_port s _ now data,
    (rxRun_reports _ now data s).out⟩

end Sys2Proof.Proofs
end

section
/-! What a step keeps and what it reports, whatever the command (10_state.md): each step that takes no
`RESET` only reports, and `RESET` writes its registers over the state with the command off the port. -/

namespace Sys2Proof.Machine

open Sys2Proof.Spec

/-- Taking a command off the port touches the port alone (R260). -/
theorem fetch_state (s : State) (f : Fetched) (h : fetch s = some f) :
    ∃ p, f.state = s.withPort p := by
  obtain ⟨offer, rest, c, -, -, rfl⟩ := fetch_some s f h
  exact ⟨portAfter offer.now c.after rest, rfl⟩

theorem withPort_reports (p : List Offer) (s : State) : Reports s (s.withPort p) :=
  .quiet rfl rfl rfl

/-- A step that takes no `RESET` only reports (R36, R290). -/
theorem step_reports (s t : State) (h : step s = .next t) (hr : ¬ TakesCommand s .reset) :
    Reports s t := by
  rcases step_cases s t h with ⟨-, rfl⟩ | ⟨f, i, hf, hi, he⟩ | ⟨f, e, hf, -, rfl⟩
  · exact .refl t
  · obtain ⟨p, hp⟩ := fetch_state s f hf
    have hne : i ≠ .reset := fun hreset => hr ⟨f, hf, hreset ▸ hi⟩
    rw [hp] at he
    exact (withPort_reports p s).trans (exec_reports i _ t hne he)
  · obtain ⟨p, hp⟩ := fetch_state s f hf
    rw [hp]
    exact (withPort_reports p s).trans (raise_reports _ _)

/-- A step that takes a `RESET` writes the reset registers and nothing else but the port (R261). -/
theorem step_of_takes_reset (s t : State) (h : step s = .next t) (hr : TakesCommand s .reset) :
    ∃ p, t = resetRegisters (s.withPort p) := by
  obtain ⟨f, hf, hi⟩ := hr
  obtain ⟨p, hp⟩ := fetch_state s f hf
  rw [step_of_fetch_of_decode s f .reset hf hi, hp] at h
  cases h
  exact ⟨p, rfl⟩

/-! ### The last error reported -/

/-- `ELAST` after a record: the code of an `ERROR` record, unchanged by any other (R25, R290). -/
def lastAfter (last : Byte) : Record → Byte
  | .error code _ => code
  | _ => last

@[simp] theorem lastAfter_error (last code : Byte) (info : ErrInfo) :
    lastAfter last (.error code info) = code := rfl

theorem lastAfter_of_not_error (last : Byte) (r : Record) (h : r.isError = false) :
    lastAfter last r = last := by
  cases r
  case error => exact absurd h nofun
  all_goals rfl

theorem foldl_lastAfter_of_not_error (last : Byte) (recs : List Record)
    (h : ∀ r ∈ recs, r.isError = false) : recs.foldl lastAfter last = last := by
  induction recs with
  | nil => rfl
  | cons r recs ih =>
    obtain ⟨hr, hrecs⟩ := List.forall_mem_cons.1 h
    rw [List.foldl_cons, lastAfter_of_not_error last r hr, ih hrecs]

/-- The records reported account for `ELAST`: it is what the last `ERROR` among them says, and what
it was where there is none (R25, R290). -/
theorem Reports.last {s t : State} (h : Reports s t) :
    ∃ recs, t.out = s.out ++ recs ∧ t.elast = recs.foldl lastAfter s.elast := by
  induction h with
  | quiet out _ last => exact ⟨[], by simpa using out, last⟩
  | record r kind out _ last =>
    exact ⟨[r], out, by rw [last]; exact (lastAfter_of_not_error _ r kind).symm⟩
  | error e out _ last => exact ⟨[e.record], out, last⟩
  | trans _ _ first second =>
    obtain ⟨recs, out, last⟩ := first
    obtain ⟨recs', out', last'⟩ := second
    exact ⟨recs ++ recs', by rw [out', out, List.append_assoc],
      by rw [last', last, List.foldl_append]⟩

theorem newRecords_of_out {s t : State} {recs : List Record} (h : t.out = s.out ++ recs) :
    newRecords s t = recs := by
  simp [newRecords, h]

/-! ### The values after reset -/

theorem reset_hasResetValues : HasResetValues State.reset :=
  ⟨rfl, rfl, rfl, rfl, rfl, rfl, rfl, rfl, rfl⟩

theorem resetRegisters_hasResetValues (s : State) : HasResetValues (resetRegisters s) :=
  ⟨rfl, rfl, rfl, rfl, rfl, rfl, rfl, rfl, rfl⟩

end Sys2Proof.Machine

namespace Sys2Proof.Proofs

open Sys2Proof.Machine Sys2Proof.Spec

/-- Settles O54: both states hold the reset values, and `RESET` writes no record. -/
theorem powerOnAndResetAgree : Obligations.PowerOnAndResetAgree := by
  refine ⟨reset_hasResetValues, rfl, fun s => ?_⟩
  exact ⟨resetRegisters s, rfl, resetRegisters_hasResetValues s, resetRegisters_out s⟩

/-- Settles O14: a step that takes a `RESET` leaves `OUT` as it is, and every other step reports. -/
theorem outputOnlyGrows : Obligations.OutputOnlyGrows := by
  intro s t h
  by_cases hr : TakesCommand s .reset
  · obtain ⟨p, rfl⟩ := step_of_takes_reset s t h hr
    exact List.prefix_rfl
  · exact (step_reports s t h hr).out

/-- Settles O15: a step that takes no `RESET` only reports, and reporting clears no sticky bit. -/
theorem stickyBitsStayUntilReset : Obligations.StickyBitsStayUntilReset := by
  intro s t h hr
  exact (step_reports s t h hr).sticky

/-- Settles O17: `ELAST` follows the records a step reports, so the last `ERROR` among them gives it;
a step that takes a `RESET` reports none. -/
theorem lastErrorIsTheLatestRaised : Obligations.LastErrorIsTheLatestRaised := by
  intro s t before after code info h hnew hafter
  by_cases hr : TakesCommand s .reset
  · obtain ⟨p, rfl⟩ := step_of_takes_reset s t h hr
    have hnone : newRecords s (resetRegisters (s.withPort p)) = [] :=
      newRecords_of_out (List.append_nil s.out).symm
    rw [hnone] at hnew
    exact absurd hnew (by simp)
  · obtain ⟨recs, hout, hlast⟩ := (step_reports s t h hr).last
    rw [newRecords_of_out hout] at hnew
    rw [hlast, hnew, List.foldl_append, List.foldl_cons, lastAfter_error]
    exact foldl_lastAfter_of_not_error code after hafter

end Sys2Proof.Proofs
end

section
/-! The transmit path (40_fec_encoder.md, 41_crc_framer.md): an encode reads no register that it has
not written itself, so the parity and the frame are functions of the data alone. -/

namespace Sys2Proof.Machine

open Sys2Proof.Spec

/-- Rows accumulated over the same information bits give the same last bit and the same parity bits,
whatever `PREV` and `PBITS` held before (R134, R135). -/
theorem accumRows_agree (h : HTable) (n : Nat) (t u : TxRegs) (hbits : t.ibits = u.ibits) :
    (t.accumRows h n).prev = (u.accumRows h n).prev ∧
      ∀ q, q < n → (t.accumRows h n).pbits[q]? = (u.accumRows h n).pbits[q]? := by
  induction n with
  | zero => exact ⟨rfl, fun q hq => absurd hq (Nat.not_lt_zero q)⟩
  | succ n ih =>
    obtain ⟨hprev, hpbits⟩ := ih
    have hrow : rowSum h (t.accumRows h n).ibits n = rowSum h (u.accumRows h n).ibits n := by
      obtain ⟨-, -, -, ht, -, -⟩ := accumRows_frame h n t
      obtain ⟨-, -, -, hu, -, -⟩ := accumRows_frame h n u
      rw [ht, hu, hbits]
    rw [accumRows_succ, accumRows_succ]
    refine ⟨congrArg₂ xor hrow hprev, fun q hq => ?_⟩
    have hle : q ≤ n := Nat.le_of_lt_succ hq
    rw [accum_pbits h _ n q (accumRows_pbits_ge h n t) hle,
      accum_pbits h _ n q (accumRows_pbits_ge h n u) hle, hrow, hprev]
    split
    · rfl
    · next hne => exact hpbits q (Nat.lt_of_le_of_ne hle hne)

/-- The parity of an information block is the same from any working registers (R138). -/
theorem fecRun_parb_agree (h : HTable) (data : Bytes) (t u : TxRegs) :
    (t.fecRun h data).parb = (u.fecRun h data).parb := by
  have hibits : (t.loadInfo data).bitUnpack.ibits = (u.loadInfo data).bitUnpack.ibits := by
    simp only [TxRegs.bitUnpack_ibits, TxRegs.loadInfo_info]
  obtain ⟨-, hpbits⟩ := accumRows_agree h 516 _ _ hibits
  have hpad : paddedParityBit (t.fecRun h data).pbits = paddedParityBit (u.fecRun h data).pbits := by
    funext q
    unfold paddedParityBit
    split
    · next hq =>
      rw [List.getD_eq_getElem?_getD, List.getD_eq_getElem?_getD, fecRun_pbits, fecRun_pbits,
        hpbits q (by omega)]
    · rfl
  rw [fecRun_parb, fecRun_parb, hpad]

/-- A frame with parity is the same from any working registers (R158). -/
theorem builtFrame1_agree (h : HTable) (data : Bytes) (t u : TxRegs) :
    builtFrame1 h data t = builtFrame1 h data u := by
  unfold builtFrame1
  rw [fecRun_parb_agree h _ (t.padTrunc data).checksum (u.padTrunc data).checksum]

/-- Writing working registers and emitting a record changes nothing else (R26). -/
theorem emit_withTx_eq (s : State) (x : TxRegs) (r : Record) :
    (s.withTx x).emit r =
      { s with tx := ((s.withTx x).emit r).tx, out := s.out ++ [r] } := rfl

/-- A transmit command writes working registers and emits one record, which the instruction alone
determines (R138, R158, R321). -/
theorem exec_transmits (i : Instr) (hi : Transmits i) :
    ∃ r, ∀ s, ∃ x, exec i s = .next ((s.withTx x).emit r) := by
  cases i
  case fecEncode data =>
    have hlen : data.length = 258 := hi
    refine ⟨.parity (TxRegs.reset.fecRun Config.hrows data).parb, fun s => ?_⟩
    refine ⟨s.tx.fecRun Config.hrows data, congrArg Host.Outcome.next ?_⟩
    rw [fecEncodeWith_of_length Config.hrows data s hlen,
      fecRun_parb_agree Config.hrows data s.tx TxRegs.reset]
  case crc16 data => exact ⟨_, fun s => ⟨_, rfl⟩⟩
  case frame fec data =>
    cases fec
    · exact ⟨_, fun s => ⟨_, congrArg Host.Outcome.next (frameWith_false Config.hrows data s)⟩⟩
    · refine ⟨.frame (builtFrame1 Config.hrows data TxRegs.reset), fun s => ?_⟩
      refine ⟨(s.tx.padTrunc data).checksum.assemble1 Config.hrows,
        congrArg Host.Outcome.next ?_⟩
      rw [frameWith_true, builtFrame1_agree Config.hrows data s.tx TxRegs.reset]
  all_goals exact hi.elim

end Sys2Proof.Machine

namespace Sys2Proof.Proofs

open Sys2Proof.Machine

/-- Settles O29: a transmit command only writes working registers and emits the one record that its
data determine. -/
theorem transmitPathIsPure : Obligations.TransmitPathIsPure := by
  intro i hi
  obtain ⟨r, hr⟩ := exec_transmits i hi
  refine ⟨r, fun s => ?_⟩
  obtain ⟨x, hx⟩ := hr s
  exact ⟨(s.withTx x).emit r, hx, emit_withTx_eq s x r⟩

end Sys2Proof.Proofs
end

section
/-! The invariant of the block (10_state.md R22 to R34, R60): one lemma for each operation, from the
shared operations up to the step. -/

namespace Sys2Proof.Machine

open Sys2Proof.Spec

/-! ### Operations that leave most of the state alone -/

theorem Legal.txSized {cap : Option Nat} {s : State} (hs : Legal cap s) : TxSized s.tx := by
  obtain ⟨-, htx, -⟩ := (memory_wf_iff s).1 hs.memory
  exact htx

/-- The transmit path keeps the invariant as long as its buffers keep their sizes. -/
theorem Legal.withTx {cap : Option Nat} {s : State} (hs : Legal cap s) {x : TxRegs}
    (hx : TxSized x) : Legal cap (s.withTx x) := by
  obtain ⟨hbuf, -, himage⟩ := (memory_wf_iff s).1 hs.memory
  exact ⟨hs.cfg, hs.errors, hs.recognizer, hs.reassembler, (memory_wf_iff _).2 ⟨hbuf, hx, himage⟩⟩

theorem Legal.emit {cap : Option Nat} {s : State} (hs : Legal cap s) (r : Record) :
    Legal cap (s.emit r) :=
  ⟨hs.cfg, hs.errors, hs.recognizer, hs.reassembler, hs.memory⟩

theorem Legal.withPort {cap : Option Nat} {s : State} (hs : Legal cap s) (p : List Offer) :
    Legal cap (s.withPort p) :=
  ⟨hs.cfg, hs.errors, hs.recognizer, hs.reassembler, hs.memory⟩

/-- What the invariant asks of a state that differs only in the recognizer (R27 to R31). -/
theorem Legal.withRecognizer {cap : Option Nat} {s t : State} (hs : Legal cap s)
    (ht : t = { s with rxfState := t.rxfState, rxfWin := t.rxfWin, rxfCnt := t.rxfCnt,
                       rxfLen := t.rxfLen, rxfBuf := t.rxfBuf })
    (hrec : RecognizerLegal t) (hbuf : t.rxfBuf.length = 323) : Legal cap t := by
  obtain ⟨-, htx, himage⟩ := (memory_wf_iff s).1 hs.memory
  rw [ht] at hrec hbuf ⊢
  exact ⟨hs.cfg, hs.errors, hrec, hs.reassembler, (memory_wf_iff _).2 ⟨hbuf, htx, himage⟩⟩

/-- What the invariant asks of a state that differs only in the open context (R33). -/
theorem Legal.withContext {cap : Option Nat} {s : State} (hs : Legal cap s) {ctx : Context}
    (hctx : ContextLegal cap ctx) : Legal cap (s.withRsm (.accumulating ctx)) := by
  obtain ⟨hbuf, htx, -⟩ := (memory_wf_iff s).1 hs.memory
  obtain ⟨-, hlength, -, -⟩ := id hctx
  have himage : Memory.imageWf (.accumulating ctx) = true := beq_iff_eq.2 hlength
  refine ⟨hs.cfg, hs.errors, hs.recognizer, ?_, (memory_wf_iff _).2 ⟨hbuf, htx, himage⟩⟩
  intro ctx' h
  cases h
  exact hctx

/-! ### Raising an error -/

/-- A sticky bit after an error: set before, or that of the error (R24, R290). -/
theorem stickyAfter_bit (v : Byte) (e : BlockError) (n : Nat) (hn : n < 8) :
    (stickyAfter v e).getLsbD n = (v.getLsbD n || decide (e.stickyBit = n)) := by
  simp only [stickyAfter, BitVec.getLsbD_or, BitVec.getLsbD_ofNat, Nat.testBit_two_pow, hn,
    decide_true, Bool.true_and]

/-- Sticky bit 7 is that of `E_CALLSIGN`, the error no rule raises (R24, R211). -/
theorem stickyBit_lt_seven {e : BlockError} (he : e ≠ .callsign) : e.stickyBit < 7 := by
  cases e
  case callsign => exact absurd rfl he
  all_goals simp [BlockError.stickyBit]

/-- An error that a rule raises leaves legal error registers (R25, R281). -/
theorem raise_errorsLegal {s : State} (hs : ErrorsLegal s) {e : BlockError} (he : e ≠ .callsign) :
    ErrorsLegal (s.raise e) := by
  obtain ⟨hreserved, -⟩ := hs
  have hlt := stickyBit_lt_seven he
  have hkept : (s.raise e).esticky.getLsbD 7 = false := by
    rw [State.raise_esticky, stickyAfter_bit _ e 7 (by decide), hreserved]
    simp [hlt.ne]
  have hset : (s.raise e).esticky.getLsbD e.stickyBit = true := by
    rw [State.raise_esticky, stickyAfter_bit _ e _ (by omega)]
    simp
  refine ⟨hkept, ?_⟩
  cases e with
  | cmd => exact .inr (.inl ⟨rfl, hset⟩)
  | fecLen => exact .inr (.inr (.inl ⟨rfl, hset⟩))
  | crc => exact .inr (.inr (.inr (.inl ⟨rfl, hset⟩)))
  | sliceLen => exact .inr (.inr (.inr (.inr (.inl ⟨rfl, hset⟩))))
  | packetType => exact .inr (.inr (.inr (.inr (.inr (.inl ⟨rfl, hset⟩)))))
  | packetStruct => exact .inr (.inr (.inr (.inr (.inr (.inr (.inl ⟨rfl, hset⟩))))))
  | callsign => exact absurd rfl he
  | overflow => exact .inr (.inr (.inr (.inr (.inr (.inr (.inr ⟨rfl, hset⟩))))))

theorem Legal.raise {cap : Option Nat} {s : State} (hs : Legal cap s) {e : BlockError}
    (he : e ≠ .callsign) : Legal cap (s.raise e) :=
  ⟨hs.cfg, raise_errorsLegal hs.errors he, hs.recognizer, hs.reassembler, hs.memory⟩

/-! ### The reassembler -/

/-- There is room for a first packet, the capacity being at least 1 (R6). -/
theorem withinCap_ibufCap_one : withinCap Config.ibufCap 1 = true := by
  unfold Config.ibufCap
  cases Config.ibufCapPred <;> simp [withinCap]

theorem withinCap_succ {cap : Option Nat} {n : Nat} (hn : withinCap cap n = true)
    (hc : atCap cap n = false) : withinCap cap (n + 1) = true := by
  cases cap with
  | none => rfl
  | some c =>
    have hle : n ≤ c := of_decide_eq_true hn
    have hne : n ≠ c := by simpa [atCap] using hc
    exact decide_eq_true (by omega)

theorem be32_append_left (A B : Bytes) (a : Nat) (h : a + 3 < A.length) :
    be32 (A ++ B) a = be32 A a := by
  unfold be32
  rw [byteAt_append_left A B a (by omega), byteAt_append_left A B (a + 1) (by omega),
    byteAt_append_left A B (a + 2) (by omega), byteAt_append_left A B (a + 3) h]

theorem be32_append_right (A B : Bytes) (a : Nat) : be32 (A ++ B) (A.length + a) = be32 B a := by
  unfold be32
  simp only [Nat.add_assoc, byteAt_append_right A B _ (Nat.le_add_right A.length _),
    Nat.add_sub_cancel_left]

/-- The context an SSDV slice opens is legal (R205). -/
theorem openContext_legal {cap : Option Nat} (hcap : withinCap cap 1 = true) (now : TimeStamp)
    {slice : Bytes} (hlen : slice.length = 256) (htype : byteAt slice 0 = 0x55) :
    ContextLegal cap (openContext now (ssdvImageId slice) (ssdvCode slice) slice) := by
  refine ⟨Nat.le_refl 1, hlen, hcap, fun k hk => ?_⟩
  obtain rfl : k = 0 := Nat.lt_one_iff.1 hk
  exact ⟨htype, rfl, rfl⟩

/-- A context with an SSDV slice of its own key appended is legal (R34, R203). -/
theorem append_legal {cap : Option Nat} {ctx : Context} (hctx : ContextLegal cap ctx)
    {slice : Bytes} (hlen : slice.length = 256) (htype : byteAt slice 0 = 0x55)
    (hkey : sameKey ctx (ssdvImageId slice) (ssdvCode slice) = true)
    (hroom : atCap cap ctx.pktCount = false) : ContextLegal cap (ctx.append slice) := by
  obtain ⟨-, hibuf, hcap, hblocks⟩ := hctx
  obtain ⟨hid, hcode⟩ : ssdvImageId slice = ctx.curId ∧
      callDecode (ssdvCode slice) = callDecode ctx.curCode := by
    simpa [sameKey] using hkey
  refine ⟨Nat.le_add_left 1 _, ?_, withinCap_succ hcap hroom, fun k hk => ?_⟩
  · rw [append_ibuf_end slice ctx hibuf, List.length_append, hibuf, hlen]
    exact (Nat.mul_succ 256 ctx.pktCount).symm
  · unfold BlockHasKey
    rw [append_ibuf_end slice ctx hibuf]
    rcases Nat.lt_succ_iff_lt_or_eq.1 hk with hlt | rfl
    · rw [byteAt_append_left _ _ _ (by omega), byteAt_append_left _ _ _ (by omega),
        be32_append_left _ _ _ (by omega)]
      exact hblocks k hlt
    · rw [← hibuf, byteAt_append_right _ _ _ (Nat.le_refl _),
        byteAt_append_right _ _ _ (Nat.le_add_right _ _), be32_append_right, Nat.sub_self,
        Nat.add_sub_cancel_left]
      exact ⟨htype, hid, hcode⟩

theorem Legal.appendSlice {cap : Option Nat} {s : State} (hs : Legal cap s) {ctx : Context}
    {slice : Bytes} (hctx : ContextLegal cap (ctx.append slice)) :
    Legal cap (appendSlice slice ctx s) := by
  rcases appendSlice_cases slice ctx s with ⟨-, e⟩ | ⟨-, e⟩ <;> rw [e]
  · exact hs.withContext hctx
  · exact (hs.withContext hctx).emit _

/-- The reassembler keeps the invariant on every SSDV slice (R34, R216). -/
theorem Legal.reassemble {cap : Option Nat} (hcap : withinCap cap 1 = true) {s : State}
    (hs : Legal cap s) (now : TimeStamp) {slice : Bytes} (hlen : slice.length = 256)
    (htype : byteAt slice 0 = 0x55) :
    Legal cap (reassemble cap now (ssdvImageId slice) (ssdvCode slice) slice s) := by
  have hopen := openContext_legal hcap now hlen htype
  rcases reassemble_cases cap now (ssdvImageId slice) (ssdvCode slice) slice s with
    ⟨-, e⟩ | ⟨ctx, -, -, e⟩ | ⟨ctx, -, -, -, e⟩ | ⟨ctx, hctx, hkey, hroom, e⟩ <;> rw [e]
  · exact hs.withContext hopen
  · exact (hs.emit _).withContext hopen
  · exact hs.raise nofun
  · exact hs.appendSlice (append_legal (hs.reassembler ctx hctx) hlen htype hkey hroom)

theorem Legal.classify {cap : Option Nat} (hcap : withinCap cap 1 = true) {s : State}
    (hs : Legal cap s) (now : TimeStamp) {slice : Bytes} (hlen : slice.length = 256) :
    Legal cap (classify cap now slice s) := by
  rcases classify_cases cap now slice s with e | ⟨_, e⟩ | ⟨_, he, e⟩ | ⟨htype, e⟩ <;> rw [e]
  · exact hs
  · exact hs.emit _
  · rcases he with rfl | rfl
    · exact hs.raise nofun
    · exact hs.raise nofun
  · exact hs.reassemble hcap now hlen htype

theorem Legal.rxSliceWith {cap : Option Nat} (hcap : withinCap cap 1 = true) {s : State}
    (hs : Legal cap s) (now : TimeStamp) (data : Bytes) : Legal cap (rxSliceWith cap now data s) := by
  unfold Machine.rxSliceWith
  split
  · exact hs.raise nofun
  · next hlen => exact hs.classify hcap now (not_not.1 hlen)

/-! ### The recognizer -/

/-- A capture is as long as one of the two formats asks (R173). -/
theorem captureLen_eq (cfg : Byte) : captureLen cfg = 258 ∨ captureLen cfg = 323 := by
  unfold captureLen
  split
  · exact .inr rfl
  · exact .inl rfl

/-- A window that matches starts a legal capture (R173). -/
theorem uwMatch_recognizerLegal (s : State) (hwin : s.rxfWin = Config.uniqueWordValue) :
    RecognizerLegal (uwMatch s) := by
  have hlen := captureLen_eq s.cfg
  refine ⟨nofun, fun _ => ⟨hwin, hlen, ?_⟩, .inr hlen⟩
  rw [uwMatch_rxfCnt, uwMatch_rxfLen]
  rcases hlen with h | h
  · rw [h]; decide
  · rw [h]; decide

/-- A byte that does not end the frame leaves the count below the length (R174). -/
theorem storeByte_recognizerLegal (b : Byte) (s : State) (hs : RecognizerLegal s)
    (hcap : s.rxfState = .capture) (hmore : s.rxfCnt + 1 ≠ s.rxfLen) :
    RecognizerLegal (storeByte b s) := by
  obtain ⟨-, hcapture, hlen⟩ := hs
  obtain ⟨hwin, hlen', hlt⟩ := hcapture hcap
  refine ⟨fun h => ?_, fun _ => ⟨hwin, hlen', ?_⟩, hlen⟩
  · rw [storeByte_rxfState, hcap] at h
    cases h
  · rw [storeByte_rxfCnt, storeByte_rxfLen]
    bv_omega

/-- The return to `HUNT` clears the window and the count (R178). -/
theorem returnToHunt_recognizerLegal (s : State)
    (hlen : s.rxfLen = 0 ∨ s.rxfLen = 258 ∨ s.rxfLen = 323) : RecognizerLegal (returnToHunt s) :=
  ⟨fun _ => ⟨rfl, by rw [returnToHunt_rxfWin]; decide⟩, nofun, hlen⟩

/-- The count of a capture is inside `RXF_BUF` (R29 to R31). -/
theorem RecognizerLegal.count_lt {s : State} (hs : RecognizerLegal s)
    (hcap : s.rxfState = .capture) : s.rxfCnt.toNat < 323 := by
  obtain ⟨-, hcapture, -⟩ := hs
  obtain ⟨-, hlen, hlt⟩ := hcapture hcap
  rcases hlen with h | h
  · rw [h] at hlt; bv_omega
  · rw [h] at hlt; bv_omega

/-- A received byte keeps the invariant (R172 to R178). -/
theorem Legal.byteStep {cap : Option Nat} (hcap : withinCap cap 1 = true) {s : State}
    (hs : Legal cap s) (now : TimeStamp) (b : Byte) : Legal cap (byteStep cap now s b) := by
  obtain ⟨hbuf, -, -⟩ := (memory_wf_iff s).1 hs.memory
  obtain ⟨hhunt, -, hlen⟩ := hs.recognizer
  rcases byteStep_cases cap now b s with
    ⟨-, hwin, e⟩ | ⟨hst, hwin, e⟩ | ⟨hst, hmore, e⟩ | ⟨hst, -, e⟩ <;> rw [e]
  · exact hs.withRecognizer rfl (uwMatch_recognizerLegal _ hwin) hbuf
  · obtain ⟨hcnt, -⟩ := hhunt hst
    have hrec : RecognizerLegal { s with rxfWin := windowAfter s.rxfWin b } :=
      ⟨fun _ => ⟨hcnt, hwin⟩, fun h => absurd (hst.symm.trans h) nofun, hlen⟩
    exact hs.withRecognizer rfl hrec hbuf
  · have hbuf' := storeByte_rxfBuf_length b s hbuf (hs.recognizer.count_lt hst)
    exact hs.withRecognizer rfl (storeByte_recognizerLegal b s hs.recognizer hst hmore) hbuf'
  · have hbuf' := storeByte_rxfBuf_length b s hbuf (hs.recognizer.count_lt hst)
    have hback : Legal cap (returnToHunt (storeByte b s)) :=
      hs.withRecognizer rfl (returnToHunt_recognizerLegal _ hlen) hbuf'
    have hpayload : (capturedPayload (storeByte b s)).length = 256 := by
      rw [capturedPayload, memRead_length, hbuf']
      rfl
    rcases frameEnd_cases cap now (storeByte b s) with ⟨-, e⟩ | ⟨-, e⟩ <;> rw [e]
    · exact hback.classify hcap now hpayload
    · exact hback.raise nofun

theorem Legal.rxRun {cap : Option Nat} (hcap : withinCap cap 1 = true) {s : State}
    (hs : Legal cap s) (now : TimeStamp) (data : Bytes) : Legal cap (rxRun cap now data s) :=
  rxRun_induction cap now (fun _ b h => h.byteStep hcap now b) data s hs

/-! ### Reset, the commands and the step -/

/-- The reset values satisfy the invariant, whatever the buffers hold (R39). -/
theorem legal_of_hasResetValues (cap : Option Nat) {s : State} (hs : HasResetValues s)
    (hmem : Memory.wf s = true) : Legal cap s := by
  obtain ⟨hcfg, -, hsticky, hlast, hstate, hwin, hcnt, hlen, hrsm⟩ := hs
  refine ⟨by rw [CfgLegal, hcfg]; rfl, ?_, ?_, ?_, hmem⟩
  · exact ⟨by rw [hsticky]; rfl, .inl ⟨hlast, hsticky⟩⟩
  · refine ⟨fun _ => ⟨hcnt, by rw [hwin]; decide⟩, fun h => ?_, .inl hlen⟩
    rw [hstate] at h
    cases h
  · intro ctx h
    rw [hrsm] at h
    cases h

theorem Legal.resetRegisters {cap : Option Nat} {s : State} (hs : Legal cap s) :
    Legal cap (resetRegisters s) := by
  obtain ⟨hbuf, htx, -⟩ := (memory_wf_iff s).1 hs.memory
  exact legal_of_hasResetValues cap (resetRegisters_hasResetValues s)
    ((memory_wf_iff _).2 ⟨hbuf, htx, rfl⟩)

theorem Legal.configure {cap : Option Nat} {s : State} (hs : Legal cap s) (cfg : Byte)
    (ncad : Half) : Legal cap (configure cfg ncad s) := by
  unfold Machine.configure
  split
  · exact hs.raise nofun
  · next hcfg => exact ⟨not_not.1 hcfg, hs.errors, hs.recognizer, hs.reassembler, hs.memory⟩

theorem Legal.fecEncodeWith {cap : Option Nat} {s : State} (hs : Legal cap s) (h : HTable)
    (data : Bytes) : Legal cap (fecEncodeWith h data s) := by
  by_cases hlen : data.length = 258
  · rw [fecEncodeWith_of_length h data s hlen]
    exact (hs.withTx (fecRun_sized h data s.tx hlen hs.txSized)).emit _
  · rw [fecEncodeWith_of_wrong_length h data s hlen]
    exact hs.raise nofun

theorem Legal.frameWith {cap : Option Nat} {s : State} (hs : Legal cap s) (h : HTable) (fec : Bool)
    (data : Bytes) : Legal cap (frameWith h fec data s) := by
  have hsized := checksum_sized _ (padTrunc_sized data s.tx hs.txSized)
  cases fec
  · rw [frameWith_false]
    exact (hs.withTx (assemble0_sized _ hsized)).emit _
  · rw [frameWith_true]
    exact (hs.withTx (assemble1_sized h _ hsized)).emit _

theorem Legal.crcCommand {cap : Option Nat} {s : State} (hs : Legal cap s) (data : Bytes) :
    Legal cap (crcCommand data s) :=
  (hs.withTx (x := { s.tx with crcr := Machine.crc16 data })
    (crcCommand_sized data s hs.txSized)).emit _

/-- Every command keeps the invariant. Packet types and frames come to the block only inside a
receive command. -/
theorem exec_legal {i : Instr} {s t : State} (hi : i.format = .cmd) (h : exec i s = .next t)
    (hs : Legal Config.ibufCap s) : Legal Config.ibufCap t := by
  cases i <;> cases hi <;> cases h
  case fecEncode data => exact hs.fecEncodeWith Config.hrows data
  case crc16 data => exact hs.crcCommand data
  case frame fec data => exact hs.frameWith Config.hrows fec data
  case rxBytes now data => exact hs.rxRun withinCap_ibufCap_one now data
  case rxSlice now data => exact hs.rxSliceWith withinCap_ibufCap_one now data
  case reset => exact hs.resetRegisters
  case setConfig cfg ncad => exact hs.configure cfg ncad
  case getStatus => exact hs.emit _

end Sys2Proof.Machine

namespace Sys2Proof.Proofs

open Sys2Proof.Machine

/-- Settles O13: the reset values are legal, and every buffer has its size. -/
theorem powerOnSatisfiesTheInvariant : Obligations.PowerOnSatisfiesTheInvariant :=
  legal_of_hasResetValues Config.ibufCap reset_hasResetValues memory_wf_reset

/-- Settles O12: a step waits, carries out a command, or refuses an illegal one, and each of these
keeps the invariant. -/
theorem stepsKeepTheInvariant : Obligations.StepsKeepTheInvariant := by
  intro s t hs h
  rcases step_cases s t h with ⟨-, rfl⟩ | ⟨f, i, hf, hi, he⟩ | ⟨f, e, hf, -, rfl⟩
  · exact hs
  · obtain ⟨p, hp⟩ := fetch_state s f hf
    have htaken : Legal Config.ibufCap f.state := hp ▸ hs.withPort p
    exact exec_legal (decodeCommand_format _ _ _ i hi) he htaken
  · obtain ⟨p, hp⟩ := fetch_state s f hf
    have htaken : Legal Config.ibufCap f.state := hp ▸ hs.withPort p
    exact htaken.raise nofun

end Sys2Proof.Proofs
end

section
/-! The connection table and the unpacked information bits (20_memory.md R62, R66, R114;
40_fec_encoder.md R132, R140): an entry is a 1-based position among the information bits, and the
bit there is read from the information block most significant bit first. -/

namespace Sys2Proof

/-- Inside a byte sequence, bit `j` in stream order is a bit of the byte that is there (R62, R66). -/
theorem map_bit_eq_streamBit (B : Bytes) (j : Nat) (hj : j / 8 < B.length) :
    (B[j / 8]?).map (fun b => b.getLsbD (7 - j % 8)) = some (streamBit B j) := by
  have hbyte : byteAt B (j / 8) = B[j / 8] := by
    rw [byteAt, List.getD_eq_getElem B 0 hj]
  rw [List.getElem?_eq_getElem hj, Option.map_some, streamBit, hbyte]

end Sys2Proof

namespace Sys2Proof.Machine

/-- Entries are counted from 1 (R114). -/
theorem one_le_tableEntry (h : HTable) (p i : Nat) : 1 ≤ tableEntry h p i :=
  Nat.succ_pos _

/-- An entry names one of the 2064 information bits (R114). -/
theorem tableEntry_le (h : HTable) (p i : Nat) : tableEntry h p i ≤ 2064 :=
  (h p i).isLt

/-- Unpacking puts the bits of the information block in stream order (R132). -/
theorem bitUnpack_ibits_getElem? (t : TxRegs) (j : Nat) (hj : j < 2064) :
    t.bitUnpack.ibits[j]? = some (streamBit t.info j) := by
  rw [TxRegs.bitUnpack_ibits, List.getElem?_map, List.getElem?_range hj, Option.map_some]

end Sys2Proof.Machine

namespace Sys2Proof.Proofs

open Sys2Proof.Machine

/-- Settles O19: the 0-based position of an entry is below 2064, so both the unpacked bits and the
258 bytes of the block hold it, and what each holds there is the block's bit in stream order. -/
theorem tableEntriesSelectInformationBits : Obligations.TableEntriesSelectInformationBits := by
  intro h p i t hlen
  have hlow := one_le_tableEntry h p i
  have hhigh := tableEntry_le h p i
  have hbit : tableEntry h p i - 1 < 2064 := by omega
  have hbyte : (tableEntry h p i - 1) / 8 < t.info.length := by omega
  refine ⟨hlow, hhigh, bitUnpack_ibits_length t, ?_⟩
  rw [bitUnpack_ibits_getElem? t _ hbit, map_bit_eq_streamBit t.info _ hbyte]

end Sys2Proof.Proofs
end

section
/-! Commands and their headers (30_encoding.md R108 to R111): the table of R109 read as a relation
between an operation and the fields of a header, what a header that is in it decodes to, and what
becomes of a command whose header is not. -/

namespace Sys2Proof

open Sys2Proof.Spec

/-! ### The operation table as a relation -/

/-- The fields of a header that the row of an operation matches (R109). -/
def CmdOp.Admits : CmdOp → Byte → Byte → Half → Prop
  | .fecEncode, op, flags, _ => op = 0x01 ∧ flags = 0
  | .crc16, op, flags, _ => op = 0x02 ∧ flags = 0
  | .frame, op, flags, _ => op = 0x03 ∧ (flags = 0 ∨ flags = 1)
  | .rxBytes, op, flags, _ => op = 0x10 ∧ flags = 0
  | .rxSlice, op, flags, _ => op = 0x11 ∧ flags = 0
  | .reset, op, flags, len => op = 0x20 ∧ flags = 0 ∧ len = 0
  | .setConfig, op, flags, len => op = 0x21 ∧ flags = 0 ∧ len = 3
  | .getStatus, op, flags, len => op = 0x22 ∧ flags = 0 ∧ len = 0

/-- A header selects an operation exactly when its fields are in that operation's row (R109). -/
theorem opOfHeader_eq_some_iff (op flags : Byte) (len : Half) (o : CmdOp) :
    opOfHeader (quad32 op flags (hi8 len) (lo8 len)) = some o ↔ o.Admits op flags len := by
  rw [opOfHeader_fields]
  constructor
  · intro h
    split_ifs at h <;> cases h <;> assumption
  · intro h
    cases o
    case frame =>
      obtain ⟨rfl, rfl | rfl⟩ := h
      · rfl
      · rfl
    case reset | setConfig | getStatus =>
      obtain ⟨rfl, rfl, rfl⟩ := h
      rfl
    all_goals
      obtain ⟨rfl, rfl⟩ := h
      rfl

/-- The headers of the table are those of the operations (R109). -/
theorem legalHeader_iff_exists_admits (op flags : Byte) (len : Half) :
    LegalHeader op flags len ↔ ∃ o : CmdOp, o.Admits op flags len := by
  constructor
  · rintro (⟨rfl | rfl | rfl | rfl, hflags⟩ | hframe | ⟨rfl | rfl, hrest⟩ | hconfig)
    · exact ⟨.fecEncode, rfl, hflags⟩
    · exact ⟨.crc16, rfl, hflags⟩
    · exact ⟨.rxBytes, rfl, hflags⟩
    · exact ⟨.rxSlice, rfl, hflags⟩
    · exact ⟨.frame, hframe⟩
    · exact ⟨.reset, rfl, hrest⟩
    · exact ⟨.getStatus, rfl, hrest⟩
    · exact ⟨.setConfig, hconfig⟩
  · rintro ⟨o, h⟩
    cases o
    case frame => exact .inr (.inl h)
    case setConfig => exact .inr (.inr (.inr h))
    all_goals obtain ⟨hop, hrest⟩ := h
    case reset => exact .inr (.inr (.inl ⟨.inl hop, hrest⟩))
    case getStatus => exact .inr (.inr (.inl ⟨.inr hop, hrest⟩))
    case fecEncode => exact .inl ⟨.inl hop, hrest⟩
    case crc16 => exact .inl ⟨.inr (.inl hop), hrest⟩
    case rxBytes => exact .inl ⟨.inr (.inr (.inl hop)), hrest⟩
    case rxSlice => exact .inl ⟨.inr (.inr (.inr hop)), hrest⟩

/-- A header outside the table selects no operation (R110). -/
theorem opOfHeader_eq_none_of_not_legalHeader (op flags : Byte) (len : Half)
    (h : ¬ LegalHeader op flags len) :
    opOfHeader (quad32 op flags (hi8 len) (lo8 len)) = none := by
  rw [Option.eq_none_iff_forall_ne_some]
  intro o ho
  exact h ((legalHeader_iff_exists_admits op flags len).2
    ⟨o, (opOfHeader_eq_some_iff op flags len o).1 ho⟩)

/-! ### What a command decodes to -/

/-- The instruction of an operation, with `NOW`, the flag bit `fec` and the data bytes (R109,
R111). -/
def CmdOp.instr (now : TimeStamp) (fec : Bool) (data : Bytes) : CmdOp → Instr
  | .fecEncode => .fecEncode data
  | .crc16 => .crc16 data
  | .frame => .frame fec data
  | .rxBytes => .rxBytes now data
  | .rxSlice => .rxSlice now data
  | .reset => .reset
  | .setConfig => .setConfig (byteAt data 0) (be16 data 1)
  | .getStatus => .getStatus

/-- A command decodes to the instruction of the operation its header selects. -/
theorem decodeCommand_eq_ok_iff (now : TimeStamp) (header : Word) (data : Bytes) (i : Instr) :
    decodeCommand now header data = .ok i ↔
      ∃ o, opOfHeader header = some o ∧ i = o.instr now (headerFec header) data := by
  unfold decodeCommand
  cases ho : opOfHeader header with
  | none => simp
  | some o => cases o <;> simp [CmdOp.instr, eq_comm]

/-- A command whose header selects no operation is illegal (R110). -/
theorem decodeCommand_of_opOfHeader_eq_none (now : TimeStamp) (header : Word) (data : Bytes)
    (h : opOfHeader header = none) :
    decodeCommand now header data = .error (.illegalHeader header) := by
  simp only [decodeCommand, h]

/-- A header whose fields are in an operation's row decodes to that operation's instruction. -/
theorem decodeCommand_of_admits (now : TimeStamp) {op flags : Byte} {len : Half} {o : CmdOp}
    (data : Bytes) (h : o.Admits op flags len) :
    decodeCommand now (quad32 op flags (hi8 len) (lo8 len)) data =
      .ok (o.instr now (flags.getLsbD 0) data) := by
  rw [decodeCommand_eq_ok_iff]
  exact ⟨o, (opOfHeader_eq_some_iff op flags len o).2 h, by rw [headerFec_quad32]⟩

/-- An encoded command is taken whole and decodes to the instruction of its operation; the bytes
after it are left (R108, R109). -/
theorem decode_cmdBytes (now : TimeStamp) {op flags : Byte} {data : Bytes} (tail : Bytes)
    {o : CmdOp} (hdata : data.length < 65536)
    (ho : o.Admits op flags (BitVec.ofNat 16 data.length)) :
    ∃ c, takeCommand (cmdBytes op flags data ++ tail) = some c ∧ c.after = tail ∧
      decodeCommand now c.header c.data = .ok (o.instr now (flags.getLsbD 0) data) :=
  ⟨_, takeCommand_cmdBytes op flags data tail hdata, rfl, decodeCommand_of_admits now data ho⟩

/-! ### What a decoded command encodes to -/

/-- The bytes of a command are those of its header's fields and the data (R108). -/
theorem cmdBytes_of_length (op flags : Byte) {data : Bytes} {len : Half}
    (hdata : data.length = len.toNat) :
    cmdBytes op flags data = [op, flags, hi8 len, lo8 len] ++ data := by
  simp [cmdBytes, cmdHeader, be16Bytes, hdata]

/-- The three data bytes of a `SET_CONFIG` are its operands (R111). -/
theorem setConfig_operands {data : Bytes} (hdata : data.length = 3) :
    byteAt data 0 :: be16Bytes (be16 data 1) = data := by
  obtain ⟨cfg, hi, lo, rfl⟩ := List.length_eq_three.1 hdata
  exact congrArg (cfg :: ·) (be16Bytes_pair16 hi lo)

/-- The instruction of an operation is well-formed, and its encoding is the command it came from
(R108, R109, R111). -/
theorem encode_instr (now : TimeStamp) {op flags : Byte} {len : Half} {data : Bytes} {o : CmdOp}
    (ho : o.Admits op flags len) (hdata : data.length = len.toNat) :
    (o.instr now (flags.getLsbD 0) data).wellFormed = true ∧
      encode (o.instr now (flags.getLsbD 0) data) = [op, flags, hi8 len, lo8 len] ++ data := by
  have hfits : dataFits data = true := decide_eq_true (hdata ▸ len.isLt)
  rw [← cmdBytes_of_length op flags hdata]
  cases o
  case frame =>
    obtain ⟨rfl, rfl | rfl⟩ := ho
    · exact ⟨hfits, rfl⟩
    · exact ⟨hfits, rfl⟩
  case reset | getStatus =>
    obtain ⟨rfl, rfl, rfl⟩ := ho
    rw [List.eq_nil_of_length_eq_zero hdata]
    exact ⟨rfl, rfl⟩
  case setConfig =>
    obtain ⟨rfl, rfl, rfl⟩ := ho
    exact ⟨rfl, congrArg (cmdBytes 0x21 0x00) (setConfig_operands hdata)⟩
  all_goals
    obtain ⟨rfl, rfl⟩ := ho
    exact ⟨hfits, rfl⟩

/-- Taking and decoding a command loses no byte: the instruction's encoding and the bytes left are
the bytes it was taken from (R108, R260). -/
theorem encode_of_decodeCommand {now : TimeStamp} {bytes : Bytes} {c : TakenCommand} {i : Instr}
    (htake : takeCommand bytes = some c) (hdecode : decodeCommand now c.header c.data = .ok i) :
    i.wellFormed = true ∧ encode i ++ c.after = bytes := by
  obtain ⟨op, flags, hi, lo, rfl, hheader, hlen⟩ := takeCommand_some bytes c htake
  have hfields : c.header = quad32 op flags (hi8 (pair16 hi lo)) (lo8 (pair16 hi lo)) := by
    rw [hi8_pair16, lo8_pair16, hheader]
  rw [hfields, headerLen_quad32] at hlen
  obtain ⟨o, ho, rfl⟩ := (decodeCommand_eq_ok_iff now _ _ i).1 hdecode
  rw [hfields, opOfHeader_eq_some_iff] at ho
  rw [hfields, headerFec_quad32]
  obtain ⟨hwf, hencode⟩ := encode_instr now ho hlen
  refine ⟨hwf, ?_⟩
  rw [hencode, hi8_pair16, lo8_pair16]

end Sys2Proof

namespace Sys2Proof.Machine

open Sys2Proof.Spec

/-- A fetched command whose header selects no operation is the illegal command (R110, R264). -/
theorem step_of_fetch_of_illegal (s : State) (f : Fetched) (hf : fetch s = some f)
    (hop : opOfHeader f.header = none) : step s = .next (illegalCommand f.header f.state) := by
  simp only [step, hf, decodeCommand_of_opOfHeader_eq_none f.now f.header f.data hop]

/-- The illegal command raises `E_CMD` with its header (R264, R281). -/
theorem illegalCommand_eq_withError (header : Word) (s : State) :
    illegalCommand header s = withError 0x01 0 (.header header) s := rfl

end Sys2Proof.Machine

namespace Sys2Proof.Proofs

open Sys2Proof.Machine Sys2Proof.Spec

/-- Settles O1: each command is encoded with the fields of its operation's row, and the encoding is
taken off the port whole. -/
theorem commandsDecodeTheirEncoding : Obligations.CommandsDecodeTheirEncoding := by
  intro i now tail hwf hformat hnow
  have hfits : ∀ {data : Bytes}, dataFits data = true → data.length < 65536 := of_decide_eq_true
  cases i
  case fecEncode data => exact decode_cmdBytes (o := .fecEncode) now tail (hfits hwf) ⟨rfl, rfl⟩
  case crc16 data => exact decode_cmdBytes (o := .crc16) now tail (hfits hwf) ⟨rfl, rfl⟩
  case frame fec data =>
    cases fec
    · exact decode_cmdBytes (o := .frame) now tail (hfits hwf) ⟨rfl, .inl rfl⟩
    · exact decode_cmdBytes (o := .frame) now tail (hfits hwf) ⟨rfl, .inr rfl⟩
  case rxBytes n data =>
    obtain rfl := hnow n rfl
    exact decode_cmdBytes (o := .rxBytes) n tail (hfits hwf) ⟨rfl, rfl⟩
  case rxSlice n data =>
    obtain rfl := hnow n rfl
    exact decode_cmdBytes (o := .rxSlice) n tail (hfits hwf) ⟨rfl, rfl⟩
  case reset =>
    exact decode_cmdBytes (o := .reset) (data := []) now tail (by decide) ⟨rfl, rfl, rfl⟩
  case getStatus =>
    exact decode_cmdBytes (o := .getStatus) (data := []) now tail (by decide) ⟨rfl, rfl, rfl⟩
  case setConfig cfg ncad =>
    have hoperands : be16 (cfg :: be16Bytes ncad) 1 = ncad := pair16_hi8_lo8 ncad
    have hdecode := decode_cmdBytes (o := .setConfig) (op := 0x21) (flags := 0x00)
      (data := cfg :: be16Bytes ncad) now tail (by simp) ⟨rfl, rfl, rfl⟩
    rw [CmdOp.instr, hoperands] at hdecode
    exact hdecode
  all_goals exact absurd hformat nofun

/-- Settles O5: a header decodes exactly when its fields are in the row of some operation. -/
theorem headersDecodeExactlyWhenListed : Obligations.HeadersDecodeExactlyWhenListed := by
  intro now op flags len data
  refine ⟨fun hlegal => ?_, fun hillegal => ?_⟩
  · obtain ⟨o, ho⟩ := (legalHeader_iff_exists_admits op flags len).1 hlegal
    exact ⟨_, decodeCommand_of_admits now data ho⟩
  · exact decodeCommand_of_opOfHeader_eq_none now _ data
      (opOfHeader_eq_none_of_not_legalHeader op flags len hillegal)

/-- Settles O9: the command is taken off the port with its data bytes, and its header selects no
operation. -/
theorem illegalCommandsOnlyRaise : Obligations.IllegalCommandsOnlyRaise := by
  intro s now op flags len data tail rest hillegal hdata hport
  have hfetch := fetch_of_port s _ rest _ hport (takeCommand_whole op flags len data tail hdata)
  have hop := opOfHeader_eq_none_of_not_legalHeader op flags len hillegal
  rw [step_of_fetch_of_illegal s _ hfetch hop, illegalCommand_eq_withError]
  rfl

end Sys2Proof.Proofs
end

section
/-! Slices (30_encoding.md R97 to R106, 42_rx_recognizer.md R185): what the bytes of a buffer at an
offset are, what a slice decodes to by its type code, and the refusal of a reserved one. -/

namespace Sys2Proof

/-! ### Bytes of a buffer by their offsets -/

/-- The first bytes of a buffer, one by one (R9). -/
theorem map_byteAt_range (B : Bytes) (n : Nat) (h : n ≤ B.length) :
    (List.range n).map (byteAt B) = B.take n := by
  apply List.ext_getElem (by simpa using h)
  intro k hk _
  have hkB : k < B.length := by simp at hk; omega
  simp [byteAt, List.getD_eq_getElem?_getD, hkB]

/-- A buffer is its first bytes, one by one, and the rest. -/
theorem map_byteAt_range_append_drop (B : Bytes) (n : Nat) (h : n ≤ B.length) :
    (List.range n).map (byteAt B) ++ B.drop n = B := by
  rw [map_byteAt_range B n h, List.take_append_drop]

/-- The bytes of a 16-bit value read at an offset are the bytes there (R10). -/
@[simp] theorem be16Bytes_be16 (B : Bytes) (a : Nat) :
    be16Bytes (be16 B a) = [byteAt B a, byteAt B (a + 1)] :=
  be16Bytes_pair16 _ _

/-- The bytes of a 32-bit value read at an offset are the bytes there (R10). -/
@[simp] theorem be32Bytes_be32 (B : Bytes) (a : Nat) :
    be32Bytes (be32 B a) = [byteAt B a, byteAt B (a + 1), byteAt B (a + 2), byteAt B (a + 3)] :=
  be32Bytes_quad32 _ _ _ _

/-! ### What a slice decodes to -/

/-- The instruction of a packet type, its fields read from the slice (R100 to R106). -/
def PacketType.instr (now : TimeStamp) (s : Bytes) : PacketType → Instr
  | .textMessage => .textMessage (byteAt s 1) (be16 s 2) (s.drop 4)
  | .gpsTelemetry => .gpsTelemetry (gpsFieldsOf s) (s.drop 35)
  | .orientationTelemetry =>
      .orientationTelemetry (be16 s 1) (be32 s 3) (byteAt s 7) (s.drop 8)
  | .secPayloadTelemetry => .secPayloadTelemetry (byteAt s 1) (s.drop 2)
  | .imageTelemetry => .imageTelemetry (s.drop 1)
  | .ssdv => .ssdv now (ssdvHeaderOf s) (s.drop 11)
  | .idle => .idle (s.drop 1)

/-- A slice decodes exactly when it has 256 bytes and its first byte is a type code, to the
instruction of that packet type (R97, R98). -/
theorem decodeSlice_eq_ok_iff (now : TimeStamp) (s : Bytes) (i : Instr) :
    decodeSlice now s = .ok i ↔
      s.length = 256 ∧ ∃ t : PacketType, byteAt s 0 = t.code ∧ i = t.instr now s := by
  simp only [← packetTypeOf_eq_some_iff]
  unfold decodeSlice
  by_cases hlen : s.length = 256
  · rw [if_neg (not_not_intro hlen)]
    cases ht : packetTypeOf (byteAt s 0) with
    | none => simp
    | some t => cases t <;> simp [PacketType.instr, hlen, eq_comm]
  · rw [if_pos hlen]
    simp [hlen]

/-- The encoding of the instruction read from a slice of a packet type is that slice: the fields and
the rest cover its bytes (R100 to R106). -/
theorem encode_packetType_instr (now : TimeStamp) {s : Bytes} {t : PacketType}
    (hlen : s.length = 256) (ht : byteAt s 0 = t.code) : encode (t.instr now s) = s := by
  have hsplit : ∀ n, n ≤ 256 → (List.range n).map (byteAt s) ++ s.drop n = s := fun n hn =>
    map_byteAt_range_append_drop s n (hn.trans_eq hlen.symm)
  cases t
  case textMessage =>
    refine Eq.trans ?_ (hsplit 4 (by decide))
    simp [PacketType.instr, encode, textSlice, ← ht, List.range_succ]
  case gpsTelemetry =>
    refine Eq.trans ?_ (hsplit 35 (by decide))
    simp [PacketType.instr, encode, gpsSlice, gpsFieldsOf, ← ht, List.range_succ]
  case orientationTelemetry =>
    refine Eq.trans ?_ (hsplit 8 (by decide))
    simp [PacketType.instr, encode, orientSlice, ← ht, List.range_succ]
  case secPayloadTelemetry =>
    refine Eq.trans ?_ (hsplit 2 (by decide))
    simp [PacketType.instr, encode, secplSlice, ← ht, List.range_succ]
  case imageTelemetry =>
    refine Eq.trans ?_ (hsplit 1 (by decide))
    simp [PacketType.instr, encode, imgtlmSlice, ← ht]
  case ssdv =>
    refine Eq.trans ?_ (hsplit 11 (by decide))
    simp [PacketType.instr, encode, ssdvSlice, ssdvHeaderOf, ← ht, List.range_succ]
  case idle =>
    refine Eq.trans ?_ (hsplit 1 (by decide))
    simp [PacketType.instr, encode, idleSlice, ← ht]

/-- The instruction read from a slice is well-formed: what no field covers is the rest of its 256
bytes (R97). -/
theorem packetType_instr_wellFormed (now : TimeStamp) {s : Bytes} (hlen : s.length = 256)
    (t : PacketType) : (t.instr now s).wellFormed = true := by
  cases t <;> simp [PacketType.instr, Instr.wellFormed, hlen]

/-- Decoding a slice loses no byte (R97). -/
theorem encode_of_decodeSlice {now : TimeStamp} {s : Bytes} {i : Instr}
    (h : decodeSlice now s = .ok i) : i.wellFormed = true ∧ encode i = s := by
  obtain ⟨hlen, t, ht, rfl⟩ := (decodeSlice_eq_ok_iff now s i).1 h
  exact ⟨packetType_instr_wellFormed now hlen t, encode_packetType_instr now hlen ht⟩

/-- A well-formed slice instruction is encoded in 256 bytes (R97). -/
theorem encode_length_of_slice {i : Instr} (hwf : i.wellFormed = true)
    (hformat : i.format = .slice) : (encode i).length = 256 := by
  cases i
  case textMessage => exact Laws.EncodeLength.textMessage _ _ _ hwf
  case gpsTelemetry => exact Laws.EncodeLength.gpsTelemetry _ _ hwf
  case orientationTelemetry => exact Laws.EncodeLength.orientationTelemetry _ _ _ _ hwf
  case secPayloadTelemetry => exact Laws.EncodeLength.secPayloadTelemetry _ _ hwf
  case imageTelemetry => exact Laws.EncodeLength.imageTelemetry _ hwf
  case ssdv => exact Laws.EncodeLength.ssdv _ _ _ hwf
  case idle => exact Laws.EncodeLength.idle _ hwf
  all_goals exact absurd hformat nofun

/-- The encoding of a slice instruction begins with its type code, and its fields read back
(R98, R100 to R106). -/
theorem instr_of_encode_slice {i : Instr} {now : TimeStamp} (hformat : i.format = .slice)
    (hnow : ∀ n, i.now? = some n → n = now) :
    ∃ t : PacketType, byteAt (encode i) 0 = t.code ∧ i = t.instr now (encode i) := by
  cases i
  case textMessage length seq rest =>
    refine ⟨.textMessage, rfl, ?_⟩
    simp [PacketType.instr, encode, textSlice, be16, byteAt, be16Bytes]
  case gpsTelemetry fields rest =>
    refine ⟨.gpsTelemetry, rfl, ?_⟩
    rw [PacketType.instr, encode, gpsFieldsOf_gpsSlice]
    rfl
  case orientationTelemetry week towMs leapS rest =>
    refine ⟨.orientationTelemetry, rfl, ?_⟩
    simp [PacketType.instr, encode, orientSlice, be16, be32, byteAt, be16Bytes, be32Bytes]
  case secPayloadTelemetry subid data => exact ⟨.secPayloadTelemetry, rfl, rfl⟩
  case imageTelemetry rest => exact ⟨.imageTelemetry, rfl, rfl⟩
  case ssdv n header rest =>
    obtain rfl := hnow n rfl
    refine ⟨.ssdv, rfl, ?_⟩
    rw [PacketType.instr, encode, ssdvHeaderOf_ssdvSlice]
    rfl
  case idle rest => exact ⟨.idle, rfl, rfl⟩
  all_goals exact absurd hformat nofun

/-- A well-formed slice instruction decodes from its encoding (R97). -/
theorem decodeSlice_encode {i : Instr} {now : TimeStamp} (hwf : i.wellFormed = true)
    (hformat : i.format = .slice) (hnow : ∀ n, i.now? = some n → n = now) :
    decodeSlice now (encode i) = .ok i :=
  (decodeSlice_eq_ok_iff now _ i).2
    ⟨encode_length_of_slice hwf hformat, instr_of_encode_slice hformat hnow⟩

end Sys2Proof

namespace Sys2Proof.Machine

open Sys2Proof.Spec

/-- A slice of a reserved type is refused with its first byte (R185). -/
theorem classify_of_reserved (cap : Option Nat) (now : TimeStamp) {slice : Bytes} (s : State)
    (h : packetTypeOf (byteAt slice 0) = none) :
    classify cap now slice s = withError 0x05 4 (.typeByte (byteAt slice 0)) s := by
  simp only [classify, h]
  rfl

/-- `RX_SLICE` of 256 bytes classifies them (R182 to R184). -/
theorem rxSliceWith_of_length (cap : Option Nat) (now : TimeStamp) {data : Bytes} (s : State)
    (h : data.length = 256) : rxSliceWith cap now data s = classify cap now data s :=
  if_neg (not_not_intro h)

end Sys2Proof.Machine

namespace Sys2Proof.Proofs

open Sys2Proof.Machine

/-- Settles O2: the encoding of a slice instruction has 256 bytes, begins with its type code, and
its fields read back. -/
theorem slicesDecodeTheirEncoding : Obligations.SlicesDecodeTheirEncoding :=
  fun _ _ hwf hformat hnow =>
    ⟨encode_length_of_slice hwf hformat, decodeSlice_encode hwf hformat hnow⟩

/-- Settles O43: a slice of 256 bytes is classified, and a byte that is no type code selects no
handler. -/
theorem reservedTypesAreRefused : Obligations.ReservedTypesAreRefused := by
  intro now slice s hlen htype
  have hnone : packetTypeOf (byteAt slice 0) = none := (packetTypeOf_eq_none_iff _).2 htype
  exact congrArg Host.Outcome.next
    ((rxSliceWith_of_length _ now s hlen).trans (classify_of_reserved _ now s hnone))

end Sys2Proof.Proofs
end

section
/-! Frames on the byte stream (30_encoding.md R91, R92; 20_memory.md R72): the fields of a frame
cover its bytes, and decoding reads them back. With the slices and the commands this gives that
decoding loses no byte. -/

namespace Sys2Proof

/-! ### Reading a buffer piece by piece -/

/-- Two reads, the second right after the first, are one (R11). -/
theorem memRead_append_memRead {α : Type} (S : List α) (a m n : Nat) :
    memRead S a m ++ memRead S (a + m) n = memRead S a (m + n) := by
  rw [memRead, memRead, memRead, ← List.drop_drop, List.take_add]

/-- Reading a buffer as far as it goes is the buffer. -/
theorem memRead_of_length_le {α : Type} {S : List α} {n : Nat} (h : S.length ≤ n) :
    memRead S 0 n = S :=
  List.take_of_length_le h

/-- Reading past the end of a buffer reads nothing (log 13). -/
theorem memRead_of_length_le_start {α : Type} {S : List α} {a : Nat} (n : Nat) (h : S.length ≤ a) :
    memRead S a n = [] := by
  rw [memRead, List.drop_eq_nil_of_le h, List.take_nil]

/-- The bytes of a 16-bit value read least significant first are the bytes there (R10, R64). -/
theorem le16Bytes_le16 {B : Bytes} {a : Nat} (h : a + 2 ≤ B.length) :
    le16Bytes (le16 B a) = memRead B a 2 := by
  have h0 : a < B.length := by omega
  have h1 : a + 1 < B.length := by omega
  rw [le16Bytes, le16, lo8_pair16, hi8_pair16, byteAt, byteAt, List.getD_eq_getElem B 0 h0,
    List.getD_eq_getElem B 0 h1, memRead, List.drop_eq_getElem_cons h0,
    List.drop_eq_getElem_cons h1]
  rfl

/-- The pieces of a buffer that begins as a frame does are its first 343 bytes (R72). -/
theorem frameBytes_of_fields {f : Bytes} (hlen : 278 ≤ f.length)
    (huw : memRead f 16 4 = Config.uniqueWord) :
    frameBytes (memRead f 0 16) (memRead f 20 256) (le16 f 276) (memRead f 278 65) =
      memRead f 0 343 := by
  rw [frameBytes, ← huw, le16Bytes_le16 (a := 276) (by omega), memRead_append_memRead f 0 16 4,
    memRead_append_memRead f 0 20 256, memRead_append_memRead f 0 276 2,
    memRead_append_memRead f 0 278 65]

/-! ### What a frame decodes to -/

/-- The instruction of a frame, its fields read from its bytes; `fec` says of which format (R91,
R92). -/
def frameInstr (fec : Bool) (now : TimeStamp) (f : Bytes) : Instr :=
  if fec then
    .frame1 now (memRead f 0 16) (memRead f 20 256) (le16 f 276) (memRead f 278 65)
  else .frame0 now (memRead f 0 16) (memRead f 20 256) (le16 f 276)

/-- A frame decodes exactly when it has its format's length and the unique word at its place, to the
instruction of its format (R91, R92, R180). -/
theorem decodeFrame_eq_ok_iff (fec : Bool) (now : TimeStamp) (f : Bytes) (i : Instr) :
    decodeFrame fec now f = .ok i ↔
      f.length = (if fec then 343 else 278) ∧ memRead f 16 4 = Config.uniqueWord ∧
        i = frameInstr fec now f := by
  unfold decodeFrame
  by_cases hlen : f.length = if fec then 343 else 278
  · rw [if_neg (not_not_intro hlen)]
    by_cases huw : memRead f 16 4 = Config.uniqueWord
    · rw [if_neg (not_not_intro huw)]
      cases fec <;> simp [frameInstr, hlen, huw, eq_comm]
    · rw [if_pos huw]
      simp [huw]
  · rw [if_pos hlen]
    simp [hlen]

/-- Decoding a frame loses no byte (R91, R92). -/
theorem encode_of_decodeFrame {fec : Bool} {now : TimeStamp} {f : Bytes} {i : Instr}
    (h : decodeFrame fec now f = .ok i) : i.wellFormed = true ∧ encode i = f := by
  obtain ⟨hlen, huw, rfl⟩ := (decodeFrame_eq_ok_iff fec now f i).1 h
  cases fec
  case false =>
    have hf : f.length = 278 := hlen
    have hparity : memRead f 278 65 = [] := memRead_of_length_le_start 65 hf.le
    have hwhole := frameBytes_of_fields hf.ge huw
    rw [hparity, memRead_of_length_le (n := 343) (by omega)] at hwhole
    exact ⟨by simp [frameInstr, Instr.wellFormed, memRead_length, hf], hwhole⟩
  case true =>
    have hf : f.length = 343 := hlen
    have hwhole := frameBytes_of_fields (by omega) huw
    rw [memRead_of_length_le (n := 343) hf.le] at hwhole
    exact ⟨by simp [frameInstr, Instr.wellFormed, memRead_length, hf], hwhole⟩

theorem frame0_wellFormed_iff (now : TimeStamp) (preamble payload : Bytes) (checksum : Half) :
    (Instr.frame0 now preamble payload checksum).wellFormed = true ↔
      preamble.length = 16 ∧ payload.length = 256 := by
  simp [Instr.wellFormed]

theorem frame1_wellFormed_iff (now : TimeStamp) (preamble payload : Bytes) (checksum : Half)
    (parity : Bytes) :
    (Instr.frame1 now preamble payload checksum parity).wellFormed = true ↔
      preamble.length = 16 ∧ payload.length = 256 ∧ parity.length = 65 := by
  simp [Instr.wellFormed, and_assoc]

/-- A well-formed frame without parity decodes from its encoding (R91). -/
theorem decodeFrame_encode_frame0 {now : TimeStamp} {preamble payload : Bytes} {checksum : Half}
    (hwf : (Instr.frame0 now preamble payload checksum).wellFormed = true) :
    decodeFrame false now (encode (.frame0 now preamble payload checksum)) =
      .ok (.frame0 now preamble payload checksum) := by
  obtain ⟨hpre, hpay⟩ := (frame0_wellFormed_iff now preamble payload checksum).1 hwf
  obtain ⟨epre, euw, epay, echk, -⟩ :=
    frameBytes_fields preamble payload checksum [] hpre hpay (by simp)
  refine (decodeFrame_eq_ok_iff false now _ _).2
    ⟨Laws.EncodeLength.frame0 now preamble payload checksum hwf, euw, ?_⟩
  simp [frameInstr, encode, epre, epay, echk]

/-- A well-formed frame with parity decodes from its encoding (R92). -/
theorem decodeFrame_encode_frame1 {now : TimeStamp} {preamble payload parity : Bytes}
    {checksum : Half}
    (hwf : (Instr.frame1 now preamble payload checksum parity).wellFormed = true) :
    decodeFrame true now (encode (.frame1 now preamble payload checksum parity)) =
      .ok (.frame1 now preamble payload checksum parity) := by
  obtain ⟨hpre, hpay, hpar⟩ := (frame1_wellFormed_iff now preamble payload checksum parity).1 hwf
  obtain ⟨epre, euw, epay, echk, epar⟩ :=
    frameBytes_fields preamble payload checksum parity hpre hpay hpar.le
  refine (decodeFrame_eq_ok_iff true now _ _).2
    ⟨Laws.EncodeLength.frame1 now preamble payload checksum parity hwf, euw, ?_⟩
  simp [frameInstr, encode, epre, epay, echk, epar]

end Sys2Proof

namespace Sys2Proof.Proofs

open Sys2Proof.Machine

/-- Settles O3: a frame's length is the sum of its parts, and its fields read back. -/
theorem framesDecodeTheirEncoding : Obligations.FramesDecodeTheirEncoding := by
  refine ⟨fun now preamble payload checksum hwf => ?_,
    fun now preamble payload checksum parity hwf => ?_⟩
  · exact ⟨Laws.EncodeLength.frame0 now preamble payload checksum hwf,
      decodeFrame_encode_frame0 hwf⟩
  · exact ⟨Laws.EncodeLength.frame1 now preamble payload checksum parity hwf,
      decodeFrame_encode_frame1 hwf⟩

/-- Settles O4: in each of the three kinds of word the fields that decoding reads, and the rest it
keeps, cover the bytes. -/
theorem decodingLosesNoByte : Obligations.DecodingLosesNoByte :=
  ⟨fun _ _ _ hslice => encode_of_decodeSlice hslice,
    fun _ _ _ _ hframe => encode_of_decodeFrame hframe,
    fun _ _ _ _ htake hdecode => encode_of_decodeCommand htake hdecode⟩

end Sys2Proof.Proofs
end

section
/-! The decoder and the encoder as a whole (30_encoding.md R90): every well-formed instruction
decodes from its encoding in its own format, and so do the words written out from the tables. -/

namespace Sys2Proof

/-- The bytes of exactly one command decode to what that command decodes to (R108). -/
theorem decode_cmd_of_takeCommand {now : TimeStamp} {bytes : Bytes} {c : TakenCommand}
    (htake : takeCommand bytes = some c) (hafter : c.after = []) :
    decode .cmd now bytes = decodeCommand now c.header c.data := by
  simp only [decode, htake, hafter, if_true]

/-- Every well-formed instruction decodes from its encoding, with `NOW` beside it (R90, R108). -/
theorem decode_encode {i : Instr} {now : TimeStamp} (hwf : i.wellFormed = true)
    (hnow : ∀ n, i.now? = some n → n = now) : decode i.format now (encode i) = .ok i := by
  cases hformat : i.format with
  | cmd =>
    obtain ⟨c, htake, hafter, hdecode⟩ :=
      Proofs.commandsDecodeTheirEncoding i now [] hwf hformat hnow
    rw [List.append_nil] at htake
    exact (decode_cmd_of_takeCommand htake hafter).trans hdecode
  | slice => exact decodeSlice_encode hwf hformat hnow
  | frame0 =>
    cases i
    case frame0 n preamble payload checksum =>
      obtain rfl := hnow n rfl
      exact decodeFrame_encode_frame0 hwf
    all_goals exact absurd hformat nofun
  | frame1 =>
    cases i
    case frame1 n preamble payload checksum parity =>
      obtain rfl := hnow n rfl
      exact decodeFrame_encode_frame1 hwf
    all_goals exact absurd hformat nofun

/-- A frame without parity ends with its checksum (R91). -/
theorem encode_frame0 (now : TimeStamp) (preamble payload : Bytes) (checksum : Half) :
    encode (.frame0 now preamble payload checksum) =
      preamble ++ Config.uniqueWord ++ payload ++ le16Bytes checksum :=
  List.append_nil _

/-- A table word that stands for the encoding of a well-formed instruction decodes to it
(log 11). -/
theorem decodeTableWord_of_encode {nbits w : Nat} {i : Instr}
    (hunit : tableUnit nbits w = some (i.format, encode i)) (hwf : i.wellFormed = true)
    (hnow : ∀ n, i.now? = some n → n = .zero) : decodeTableWord nbits w = some i := by
  simp only [decodeTableWord, hunit, decode_encode hwf hnow]
  rfl

end Sys2Proof

namespace Sys2Proof.Proofs

open Sys2Proof.Machine

/-- Settles O6: each word is the encoding of the instruction it stands for, but for the header of no
operation, which decodes to nothing. -/
theorem writtenWordsDecodeRight : Obligations.WrittenWordsDecodeRight := by
  have hzero : ∀ n, some TimeStamp.zero = some n → n = .zero := fun _ h => (Option.some.inj h).symm
  refine ⟨?_, ?_, ?_, ?_, ?_, ?_, ?_, ?_, ?_⟩
  · exact decodeTableWord_of_encode rfl rfl nofun
  · exact decodeTableWord_of_encode rfl rfl nofun
  · rfl
  · exact decodeTableWord_of_encode rfl (by simp [Instr.wellFormed]) nofun
  · exact decode_encode (i := .setConfig 0x00 2) rfl nofun
  · exact decode_encode (i := .rxBytes .zero [0xEF]) rfl hzero
  · exact decode_encode (i := .idle (rep 0x12 255)) (by simp [Instr.wellFormed]) nofun
  · have hframe := decode_encode (i := .frame0 .zero (rep 0x55 16) (rep 0x56 256) 0x1234)
      (by simp [Instr.wellFormed]) hzero
    rw [encode_frame0] at hframe
    exact hframe
  · exact decode_encode
      (i := .frame1 .zero (rep 0x55 16) (rep 0x56 256) 0x1234 (rep 0xF0 65))
      (by simp [Instr.wellFormed]) hzero

end Sys2Proof.Proofs
end

section
/-! A frame on the byte stream (42_rx_recognizer.md R170 to R178): the bytes before the end of the
unique word only move the window, the bytes after it fill the buffer, and the last one delivers the
payload. What `FRAME` emits is such a frame. -/

namespace Sys2Proof.Machine

open Sys2Proof.Spec

/-! ### A byte, by the state of the recognizer -/

section byte
variable (cap : Option Nat) (now : TimeStamp) (b : Byte) {s : State}

theorem byteStep_of_hunt (hs : s.rxfState = .hunt) : byteStep cap now s b = huntByte b s := by
  simp only [byteStep, hs]

theorem byteStep_of_capture (hs : s.rxfState = .capture) :
    byteStep cap now s b = captureByte cap now b s := by
  simp only [byteStep, hs]

theorem byteStep_of_no_match (hs : s.rxfState = .hunt)
    (hw : windowAfter s.rxfWin b ≠ Config.uniqueWordValue) :
    byteStep cap now s b = { s with rxfWin := windowAfter s.rxfWin b } :=
  (byteStep_of_hunt cap now b hs).trans (if_neg hw)

theorem byteStep_of_match (hs : s.rxfState = .hunt)
    (hw : windowAfter s.rxfWin b = Config.uniqueWordValue) :
    byteStep cap now s b = uwMatch { s with rxfWin := Config.uniqueWordValue } := by
  rw [← hw]
  exact (byteStep_of_hunt cap now b hs).trans (if_pos hw)

theorem byteStep_of_not_last (hs : s.rxfState = .capture) (hcnt : s.rxfCnt + 1 ≠ s.rxfLen) :
    byteStep cap now s b = storeByte b s :=
  (byteStep_of_capture cap now b hs).trans (if_neg hcnt)

theorem byteStep_of_last (hs : s.rxfState = .capture) (hcnt : s.rxfCnt + 1 = s.rxfLen) :
    byteStep cap now s b = frameEnd cap now (storeByte b s) :=
  (byteStep_of_capture cap now b hs).trans (if_pos hcnt)

end byte

/-! ### Hunting -/

/-- The window after a byte, on natural numbers (R118, R172). -/
theorem windowAfter_toNat (win : Word) (b : Byte) :
    (windowAfter win b).toNat = (win.toNat * 256 + b.toNat) % 2 ^ 32 := by
  simp [windowAfter]

/-- A byte that does not end the unique word does not complete it (R93). -/
theorem windowAfter_ne_uniqueWord (win : Word) {b : Byte} (hb : b ≠ 0x01) :
    windowAfter win b ≠ Config.uniqueWordValue := by
  intro h
  have hwin : (win.toNat * 256 + b.toNat) % 2 ^ 32 = 0xABCDEF01 :=
    (windowAfter_toNat win b).symm.trans (congrArg BitVec.toNat h)
  have hlow : b.toNat = 0x01 := by omega
  exact hb (BitVec.eq_of_toNat_eq hlow)

/-- The four bytes of the unique word fill the window, whatever it held (R28, R172). -/
theorem foldl_windowAfter_uniqueWord (win : Word) :
    Config.uniqueWord.foldl windowAfter win = Config.uniqueWordValue := by
  apply BitVec.eq_of_toNat_eq
  simp only [List.foldl, windowAfter_toNat, BitVec.ofNat_eq_ofNat, BitVec.toNat_ofNat]
  omega

/-- In `HUNT`, bytes that do not end the unique word only move the window (R172). -/
theorem rxRun_hunt (cap : Option Nat) (now : TimeStamp) (data : Bytes) (s : State)
    (hs : s.rxfState = .hunt) (hdata : (0x01 : Byte) ∉ data) :
    rxRun cap now data s = { s with rxfWin := data.foldl windowAfter s.rxfWin } := by
  induction data generalizing s with
  | nil => rfl
  | cons b data ih =>
    obtain ⟨hb, hdata⟩ := not_or.1 (mt List.mem_cons.2 hdata)
    rw [rxRun_cons, byteStep_of_no_match cap now b hs (windowAfter_ne_uniqueWord _ (Ne.symm hb))]
    exact ih _ hs hdata

/-- A preamble that cannot end a unique word, and the unique word, start a capture from any window
(R172, R173, R179). -/
theorem rxRun_preamble_uniqueWord (cap : Option Nat) (now : TimeStamp) (preamble : Bytes)
    (s : State) (hs : s.rxfState = .hunt) (hpre : (0x01 : Byte) ∉ preamble) :
    rxRun cap now (preamble ++ Config.uniqueWord) s =
      uwMatch { s with rxfWin := Config.uniqueWordValue } := by
  have hhead : (0x01 : Byte) ∉ preamble ++ [0xAB, 0xCD, 0xEF] := by simpa using hpre
  have hsplit : preamble ++ Config.uniqueWord = (preamble ++ [0xAB, 0xCD, 0xEF]) ++ [0x01] := by
    simp [Config.uniqueWord]
  have hwin := foldl_windowAfter_uniqueWord (preamble.foldl windowAfter s.rxfWin)
  rw [← List.foldl_append, hsplit, List.foldl_append] at hwin
  rw [hsplit, rxRun_append, rxRun_hunt cap now _ s hs hhead]
  exact byteStep_of_match cap now 0x01 hs hwin

/-! ### Capturing -/

/-- The state with bytes captured from the start of the buffer (R31, R174). -/
def captured (data : Bytes) (s : State) : State :=
  { s with rxfBuf := memWrite s.rxfBuf 0 data, rxfCnt := BitVec.ofNat 9 data.length }

/-- With no byte captured the count is 0 and the buffer as it was (R173). -/
theorem captured_nil {s : State} (hcnt : s.rxfCnt = 0) : captured [] s = s := by
  cases s
  cases hcnt
  rfl

/-- A byte is stored right after those captured before it (R174). -/
theorem storeByte_captured (data : Bytes) (b : Byte) {s : State} (hdata : data.length < 512) :
    storeByte b (captured data s) = captured (data ++ [b]) s := by
  have hcnt : (BitVec.ofNat 9 data.length).toNat = 0 + data.length := by
    rw [BitVec.toNat_ofNat, Nat.mod_eq_of_lt hdata, Nat.zero_add]
  have hbuf := memWrite_memWrite s.rxfBuf data [b] 0 (Nat.zero_le _)
  rw [← hcnt] at hbuf
  have hnext : BitVec.ofNat 9 data.length + 1 = BitVec.ofNat 9 (data ++ [b]).length := by
    rw [List.length_append, BitVec.ofNat_add]
    rfl
  simp only [storeByte, captured, hbuf, hnext]

/-- One more byte than those captured ends the frame exactly when it fills the latched length. -/
theorem captured_count_succ_eq_iff (data : Bytes) {s : State} (hdata : data.length + 1 < 512) :
    (captured data s).rxfCnt + 1 = (captured data s).rxfLen ↔
      data.length + 1 = s.rxfLen.toNat := by
  rw [← BitVec.toNat_inj, BitVec.toNat_add, captured, BitVec.toNat_ofNat]
  show (data.length % 2 ^ 9 + 1) % 2 ^ 9 = s.rxfLen.toNat ↔ _
  omega

/-- Bytes captured before the last one fill the buffer in order (R174). -/
theorem rxRun_capture_partial (cap : Option Nat) (now : TimeStamp) (data : Bytes) (s : State)
    (hs : s.rxfState = .capture) (hcnt : s.rxfCnt = 0) (hlen : data.length < s.rxfLen.toNat) :
    rxRun cap now data s = captured data s := by
  have hmax := s.rxfLen.isLt
  induction data using List.reverseRecOn with
  | nil => exact (captured_nil hcnt).symm
  | append_singleton data b ih =>
    rw [List.length_append, List.length_singleton] at hlen
    have hnot : (captured data s).rxfCnt + 1 ≠ (captured data s).rxfLen :=
      mt (captured_count_succ_eq_iff data (by omega)).1 (by omega)
    rw [rxRun_append, ih (by omega), ← storeByte_captured data b (by omega)]
    exact byteStep_of_not_last cap now b hs hnot

/-- Bytes that fill the latched length end the frame (R174, R175). -/
theorem rxRun_capture_whole (cap : Option Nat) (now : TimeStamp) (data : Bytes) (s : State)
    (hs : s.rxfState = .capture) (hcnt : s.rxfCnt = 0) (hlen : data.length = s.rxfLen.toNat)
    (hne : data ≠ []) : rxRun cap now data s = frameEnd cap now (captured data s) := by
  have hmax := s.rxfLen.isLt
  obtain ⟨front, b, rfl⟩ := (List.eq_nil_or_concat' data).resolve_left hne
  rw [List.length_append, List.length_singleton] at hlen
  have hlast : (captured front s).rxfCnt + 1 = (captured front s).rxfLen :=
    (captured_count_succ_eq_iff front (by omega)).2 hlen
  rw [rxRun_append, rxRun_capture_partial cap now front s hs hcnt (by omega),
    ← storeByte_captured front b (by omega)]
  exact byteStep_of_last cap now b hs hlast

/-! ### A whole frame -/

/-- The captured part of a frame: payload, checksum low byte first, parity (R72, R173). -/
theorem frameBytes_eq_append_body (preamble payload : Bytes) (checksum : Half) (parity : Bytes) :
    frameBytes preamble payload checksum parity =
      (preamble ++ Config.uniqueWord) ++ (payload ++ le16Bytes checksum ++ parity) := by
  simp only [frameBytes, List.append_assoc]

/-- A frame whose preamble cannot end a unique word is captured from any window, as far as `RXFEC`
says, and its last byte ends it (R170, R173 to R175). -/
theorem rxRun_frameBytes (cap : Option Nat) (now : TimeStamp) {preamble payload : Bytes}
    (checksum : Half) {parity : Bytes} {s : State} (hs : s.rxfState = .hunt)
    (hpre : (0x01 : Byte) ∉ preamble) (hpay : payload.length = 256)
    (hlen : parity.length + 258 = (captureLen s.cfg).toNat) :
    rxRun cap now (frameBytes preamble payload checksum parity) s =
      frameEnd cap now (captured (payload ++ le16Bytes checksum ++ parity)
        (uwMatch { s with rxfWin := Config.uniqueWordValue })) := by
  rw [frameBytes_eq_append_body, rxRun_append, rxRun_preamble_uniqueWord cap now preamble s hs hpre]
  have hbody : (payload ++ le16Bytes checksum ++ parity).length = parity.length + 258 := by
    rw [List.length_append, List.length_append, le16Bytes_length, hpay]
    omega
  refine rxRun_capture_whole cap now _ _ rfl rfl (hbody.trans hlen) ?_
  exact List.ne_nil_of_length_pos (by omega)

/-- The captured bytes are at the start of the buffer (R174). -/
theorem captured_rxfBuf (data : Bytes) (s : State) :
    (captured data s).rxfBuf = data ++ s.rxfBuf.drop data.length := by
  simp [captured, memWrite]

/-- What a capture of a payload, its checksum and any bytes after them delivers: the bytes after
them are not read (R175 to R177, R181). -/
theorem frameEnd_captured (cap : Option Nat) (now : TimeStamp) {payload : Bytes} (checksum : Half)
    (rest : Bytes) (s : State) (hpay : payload.length = 256) :
    frameEnd cap now (captured (payload ++ le16Bytes checksum ++ rest) s) =
      if checksum = crc16 payload then
        classify cap now payload
          (returnToHunt (captured (payload ++ le16Bytes checksum ++ rest) s))
      else (returnToHunt (captured (payload ++ le16Bytes checksum ++ rest) s)).raise
        (.crc (crc16 payload) checksum) := by
  obtain ⟨tail, hbuf⟩ : ∃ tail, (captured (payload ++ le16Bytes checksum ++ rest) s).rxfBuf =
      payload ++ (le16Bytes checksum ++ tail) :=
    ⟨_, by rw [captured_rxfBuf, List.append_assoc, List.append_assoc, List.append_assoc]⟩
  generalize captured (payload ++ le16Bytes checksum ++ rest) s = t at hbuf ⊢
  have hpayload : capturedPayload t = payload := by
    rw [capturedPayload, hbuf, ← hpay]
    exact List.take_left
  have hchecksum : capturedChecksum t = checksum := by
    rw [capturedChecksum, hbuf, le16, byteAt_append_right payload _ 256 hpay.le,
      byteAt_append_right payload _ (256 + 1) (by omega), hpay]
    exact pair16_hi8_lo8 checksum
  simp only [frameEnd, hpayload, hchecksum]

/-- A frame with the right checksum delivers its payload once; besides what the payload does, the
recognizer is back in `HUNT` and holds the latched length and the captured bytes (R170, R176,
R178). -/
theorem rxRun_frameBytes_of_checksum (cap : Option Nat) (now : TimeStamp)
    {preamble payload parity : Bytes} {s : State} (hs : s.rxfState = .hunt)
    (hpre : (0x01 : Byte) ∉ preamble) (hpay : payload.length = 256)
    (hlen : parity.length + 258 = (captureLen s.cfg).toNat) :
    ∃ len buf, rxRun cap now (frameBytes preamble payload (crc16 payload) parity) s =
      classify cap now payload
        { s with rxfState := .hunt, rxfWin := 0, rxfCnt := 0, rxfLen := len, rxfBuf := buf } := by
  rw [rxRun_frameBytes cap now (crc16 payload) hs hpre hpay hlen,
    frameEnd_captured cap now (crc16 payload) parity _ hpay, if_pos rfl]
  exact ⟨_, _, rfl⟩

/-! ### The frames the block sends -/

theorem cfgReserved_cfgOf (fec : Bool) : cfgReserved (cfgOf fec) = 0 := by
  cases fec <;> rfl

/-- A configuration without reserved bits is written (R262). -/
theorem configure_cfgOf (fec : Bool) (ncad : Half) (s : State) :
    configure (cfgOf fec) ncad s = { s with cfg := cfgOf fec, ncad := ncad } :=
  if_neg (not_not_intro (cfgReserved_cfgOf fec))

/-- What `FRAME` of either format emits: a frame with the framer's preamble, the padded payload, its
checksum, and as much parity as the recognizer takes with `RXFEC` set to `fec` (R154 to R157). -/
theorem frameWith_out (h : HTable) (fec : Bool) (data : Bytes) (s : State) :
    ∃ parity, parity.length + 258 = (captureLen (cfgOf fec)).toNat ∧
      (frameWith h fec data s).out = s.out ++ [.frame
        (frameBytes framePreamble (padTruncBytes data) (crc16 (padTruncBytes data)) parity)] := by
  cases fec
  case false =>
    rw [frameWith_false]
    exact ⟨[], rfl, rfl⟩
  case true =>
    rw [frameWith_true, State.emit_out, State.withTx_out, builtFrame1]
    refine ⟨_, ?_, rfl⟩
    rw [fecRun_eq, bitPack_parb_length]
    rfl

/-- The framer pads with 0x55 and truncates at 256 bytes (R152). -/
theorem isPadded_padTruncBytes (data : Bytes) : IsPadded data (padTruncBytes data) := by
  refine ⟨padTruncBytes_length data, fun k hk => ?_⟩
  rw [padTruncBytes, List.getElem?_map, List.getElem?_range hk, Option.map_some,
    List.getD_eq_getElem?_getD]
  split
  · next hlt => rw [List.getElem?_eq_getElem hlt, Option.getD_some]
  · next hge => rw [List.getElem?_eq_none (Nat.le_of_not_lt hge), Option.getD_none]

/-- The preamble of the framer holds no byte that ends the unique word (R93). -/
theorem one_not_mem_framePreamble : (0x01 : Byte) ∉ framePreamble := by decide

end Sys2Proof.Machine

namespace Sys2Proof.Proofs

open Sys2Proof.Machine Sys2Proof.Spec

/-- Settles O38: the frame emitted is one whose payload the recognizer delivers, and classifying
that payload leaves the latched length and the captured bytes alone. -/
theorem framedPayloadsAreDelivered : Obligations.FramedPayloadsAreDelivered := by
  intro now fec data s hs
  have hconfig : exec (.setConfig (cfgOf fec) s.ncad) s = .next { s with cfg := cfgOf fec } :=
    congrArg Host.Outcome.next (configure_cfgOf fec s.ncad s)
  obtain ⟨parity, hparity, hout⟩ :=
    frameWith_out Config.hrows fec data { s with cfg := cfgOf fec }
  have hhunt : (frameWith Config.hrows fec data { s with cfg := cfgOf fec }).rxfState = .hunt :=
    (frameWith_rxfState _ _ _ _).trans hs
  have hcapture : parity.length + 258 =
      (captureLen (frameWith Config.hrows fec data { s with cfg := cfgOf fec }).cfg).toNat := by
    rw [frameWith_cfg]
    exact hparity
  obtain ⟨len, buf, hrun⟩ := rxRun_frameBytes_of_checksum Config.ibufCap now hhunt
    one_not_mem_framePreamble (padTruncBytes_length data) hcapture
  refine ⟨_, _, _, _, padTruncBytes data, hconfig, rfl, hout, isPadded_padTruncBytes data, rfl, ?_⟩
  rw [hrun, classify_rxfLen, classify_rxfBuf]

end Sys2Proof.Proofs
end

section
/-! The callsign code (30_encoding.md R107, 44_packet_types.md R237): the loop of `CallDecode`
writes out the base-40 digits of the code. -/

namespace Sys2Proof.Machine

/-- The loop writes at most one character for each turn (R237). -/
theorem callDigits_length_le (fuel x : Nat) : (callDigits fuel x).length ≤ fuel := by
  induction fuel generalizing x with
  | zero => exact Nat.le_refl 0
  | succ fuel ih =>
    unfold callDigits
    split
    · exact Nat.zero_le _
    · exact Nat.succ_le_succ (ih _)

/-- With a turn for every digit, the loop writes the characters of the base-40 digits (R237). -/
theorem callDigits_eq_map_digits (fuel x : Nat) (h : x < 40 ^ fuel) :
    callDigits fuel x = (Nat.digits 40 x).map callChar := by
  induction fuel generalizing x with
  | zero =>
    obtain rfl : x = 0 := by simpa using h
    simp [callDigits]
  | succ fuel ih =>
    unfold callDigits
    split
    · next hx => simp [hx]
    · next hx =>
      have hquotient : x / 40 < 40 ^ fuel := Nat.div_lt_of_lt_mul (pow_succ' 40 fuel ▸ h)
      rw [Nat.digits_def' (by decide) (Nat.pos_of_ne_zero hx), List.map_cons, ih _ hquotient]

/-- The alphabet, written as one string (R107). -/
theorem callChar_eq_alphabet {d : Nat} (h : d < 40) :
    callChar d = "-0123456789---ABCDEFGHIJKLMNOPQRSTUVWXYZ".toList.getD d ' ' := by
  have hall : ∀ k : Fin 40,
      callChar k = "-0123456789---ABCDEFGHIJKLMNOPQRSTUVWXYZ".toList.getD k ' ' := by
    decide +kernel
  exact hall ⟨d, h⟩

end Sys2Proof.Machine

namespace Sys2Proof.Proofs

open Sys2Proof.Machine

/-- Settles O52: a 32-bit code is below 40 to the power 7, so the seven turns of the loop write all
its base-40 digits, and each digit is below 40. -/
theorem callsignIsTheBaseFortyDigits : Obligations.CallsignIsTheBaseFortyDigits := by
  intro code
  have hcode : code.toNat < 40 ^ 7 := code.isLt.trans (by decide)
  refine ⟨?_, callDigits_length_le 7 code.toNat⟩
  rw [callDecode, callDigits_eq_map_digits 7 code.toNat hcode]
  exact List.map_congr_left fun d hd => callChar_eq_alphabet (Nat.digits_lt_base (by decide) hd)

end Sys2Proof.Proofs
end

section
/-! The LDPC encoder (40_fec_encoder.md R131 to R141): the accumulator is a running XOR of the row
sums, the packed bytes are the only ones with the parity bits of the block, and those bits are
linear in the block. -/

namespace Sys2Proof.Machine

open Sys2Proof.Spec

/-! ### Sums of bits -/

/-- `f 0 XOR f 1 XOR … XOR f (n - 1)`: the shape of a row sum (R133) and of a parity bit (R136). -/
def xorOver (n : Nat) (f : Nat → Bool) : Bool := ((List.range n).map f).foldr xor false

theorem rowXor_eq_xorOver (h : HTable) (info : Bytes) (p : Nat) :
    rowXor h info p = xorOver 12 fun i => infoBit info (tableEntry h p i - 1) := rfl

theorem parityBit_eq_xorOver (h : HTable) (info : Bytes) (p : Nat) :
    parityBit h info p = xorOver (p + 1) (rowXor h info) := rfl

/-- The sum in the order of the block's loop, from the first bit on. -/
theorem xorOver_eq_foldl (n : Nat) (f : Nat → Bool) :
    xorOver n f = (List.range n).foldl (fun s i => s ^^ f i) false := by
  have hcomm : Std.Commutative xor := ⟨Bool.xor_comm⟩
  have hassoc : Std.Associative xor := ⟨Bool.xor_assoc⟩
  rw [xorOver, ← List.foldl_eq_foldr, List.foldl_map]

theorem xorOver_succ (n : Nat) (f : Nat → Bool) : xorOver (n + 1) f = (xorOver n f ^^ f n) := by
  simp only [xorOver_eq_foldl, List.range_succ, List.foldl_append, List.foldl_cons, List.foldl_nil]

theorem xorOver_congr {n : Nat} {f g : Nat → Bool} (h : ∀ i, i < n → f i = g i) :
    xorOver n f = xorOver n g :=
  congrArg (List.foldr xor false) (List.map_congr_left fun i hi => h i (List.mem_range.1 hi))

/-- A sum of XORs is the XOR of the sums. -/
theorem xorOver_xor (n : Nat) (f g : Nat → Bool) :
    xorOver n (fun i => f i ^^ g i) = (xorOver n f ^^ xorOver n g) := by
  induction n with
  | zero => rfl
  | succ n ih => simp only [xorOver_succ, ih, Bool.xor_assoc, Bool.xor_left_comm]

theorem xorOver_false (n : Nat) : xorOver n (fun _ => false) = false := by
  induction n with
  | zero => rfl
  | succ n ih => rw [xorOver_succ, ih]; rfl

/-! ### Bits of a byte sequence -/

/-- A table entry names a bit inside a block of 258 bytes (R114). -/
theorem tableEntry_sub_one_lt (h : HTable) (p i : Nat) : tableEntry h p i - 1 < 2064 := (h p i).isLt

/-- Outside the byte sequence every bit reads 0. -/
theorem infoBit_of_length_le {B : Bytes} {j : Nat} (h : B.length ≤ j / 8) :
    infoBit B j = false := by
  rw [infoBit, List.getD_eq_default _ _ h]
  exact BitVec.getLsbD_zero

/-- A bit of a byte sequence by its byte and its place in the byte (R66). -/
theorem infoBit_of_byte (B : Bytes) (k t : Nat) (ht : t < 8) :
    infoBit B (8 * k + (7 - t)) = (B.getD k 0).getLsbD t := by
  have hbyte : (8 * k + (7 - t)) / 8 = k := by omega
  have hplace : 7 - (8 * k + (7 - t)) % 8 = t := by omega
  rw [infoBit, hbyte, hplace]

/-- A byte sequence is told by its length and its bits. -/
theorem eq_of_infoBit_eq {A B : Bytes} (hlen : A.length = B.length)
    (hbit : ∀ j, j < 8 * A.length → infoBit A j = infoBit B j) : A = B := by
  refine List.ext_getElem hlen fun k hA hB => BitVec.eq_of_getLsbD_eq fun t ht => ?_
  have hk := hbit (8 * k + (7 - t)) (by omega)
  rwa [infoBit_of_byte A k t ht, infoBit_of_byte B k t ht, List.getD_eq_getElem A 0 hA,
    List.getD_eq_getElem B 0 hB] at hk

/-- The bits of packed bytes are the bits packed (R65, R137). -/
theorem infoBit_map_packByte (n : Nat) (f : Nat → Bool) (q : Nat) (hq : q < 8 * n) :
    infoBit ((List.range n).map fun k => packByte fun j => f (8 * k + j)) q = f q := by
  have hbyte : q / 8 < n := by omega
  have hbit : 8 * (q / 8) + q % 8 = q := Nat.div_add_mod q 8
  rw [infoBit, List.getD_eq_getElem?_getD, List.getElem?_map, List.getElem?_range hbyte,
    Option.map_some, Option.getD_some, packByte_bit _ _ (Nat.mod_lt q (by decide)), hbit]

/-- Bytewise XOR is bitwise XOR. -/
theorem infoBit_xorBytes {a b : Bytes} (hlen : a.length = b.length) (j : Nat) :
    infoBit (xorBytes a b) j = (infoBit a j ^^ infoBit b j) := by
  have hx : (xorBytes a b).length = a.length := by simp [xorBytes, hlen]
  by_cases hj : j / 8 < a.length
  · have hxor : (xorBytes a b).getD (j / 8) 0 = a.getD (j / 8) 0 ^^^ b.getD (j / 8) 0 := by
      rw [List.getD_eq_getElem _ _ (hx ▸ hj), List.getD_eq_getElem _ _ hj,
        List.getD_eq_getElem _ _ (hlen ▸ hj)]
      exact List.getElem_zipWith
    rw [infoBit, hxor, BitVec.getLsbD_xor]
    rfl
  · have hge := Nat.le_of_not_lt hj
    rw [infoBit_of_length_le (hx ▸ hge), infoBit_of_length_le hge,
      infoBit_of_length_le (hlen ▸ hge)]
    rfl

theorem infoBit_zeros (n j : Nat) : infoBit (rep 0x00 n) j = false := by
  have hbyte : (rep 0x00 n : Bytes).getD (j / 8) 0 = 0 := by
    rw [rep, List.getD_eq_getElem?_getD, List.getElem?_replicate]
    split <;> rfl
  rw [infoBit, hbyte]
  exact BitVec.getLsbD_zero

theorem infoBit_ones {n j : Nat} (hj : j < 8 * n) : infoBit (rep 0xFF n) j = true := by
  have hbyte : j / 8 < n := by omega
  have hones : ∀ t : Fin 8, (0xFF : Byte).getLsbD t = true := by decide
  rw [infoBit, rep, List.getD_replicate _ hbyte]
  exact hones ⟨7 - j % 8, by omega⟩

/-! ### The closed form of the parity bits -/

theorem parityBit_zero (h : HTable) (info : Bytes) : parityBit h info 0 = rowXor h info 0 := by
  rw [parityBit_eq_xorOver, xorOver_succ]
  exact Bool.false_xor _

theorem parityBit_succ (h : HTable) (info : Bytes) (p : Nat) :
    parityBit h info (p + 1) = (parityBit h info p ^^ rowXor h info (p + 1)) :=
  xorOver_succ (p + 1) (rowXor h info)

/-- The parity-check equation of row `p + 1` (R136). -/
theorem parityBit_succ_xor (h : HTable) (info : Bytes) (p : Nat) :
    (parityBit h info (p + 1) ^^ parityBit h info p) = rowXor h info (p + 1) := by
  rw [parityBit_succ, Bool.xor_comm]
  exact Bool.bne_self_left _ _

/-- `ROWSUM` of the unpacked bits is the row's sum over the block (R132, R133). -/
theorem rowSum_unpacked (h : HTable) (info : Bytes) (p : Nat) :
    rowSum h ((List.range 2064).map (streamBit info)) p = rowXor h info p := by
  rw [rowXor_eq_xorOver, xorOver_eq_foldl]
  refine congrArg (fun f => (List.range 12).foldl f false) (funext₂ fun s i => ?_)
  rw [List.getD_eq_getElem?_getD, List.getElem?_map,
    List.getElem?_range (tableEntry_sub_one_lt h p i)]
  rfl

/-- After `n` rows over an unpacked block, `PREV` is the sum of their row sums, and the parity bits
written are the closed form (R134, R135, R136). -/
theorem accumRows_closed_form {h : HTable} {info : Bytes} {t : TxRegs}
    (hbits : t.ibits = (List.range 2064).map (streamBit info)) (n : Nat) :
    (t.accumRows h n).prev = xorOver n (rowXor h info) ∧
      ∀ q, q < n → (t.accumRows h n).pbits[q]? = some (parityBit h info q) := by
  induction n with
  | zero => exact ⟨rfl, fun q hq => absurd hq (Nat.not_lt_zero q)⟩
  | succ n ih =>
    obtain ⟨hprev, hpbits⟩ := ih
    have hbit : (rowSum h (t.accumRows h n).ibits n ^^ (t.accumRows h n).prev) =
        parityBit h info n := by
      obtain ⟨-, -, -, hkept, -, -⟩ := accumRows_frame h n t
      rw [hkept, hbits, rowSum_unpacked, hprev, Bool.xor_comm, parityBit_eq_xorOver, xorOver_succ]
    rw [accumRows_succ]
    refine ⟨hbit, fun q hq => ?_⟩
    have hle : q ≤ n := Nat.le_of_lt_succ hq
    rw [accum_pbits h _ n q (accumRows_pbits_ge h n t) hle, hbit]
    split
    · next heq => rw [heq]
    · next hne => exact hpbits q (Nat.lt_of_le_of_ne hle hne)

/-- `PIDX` is left at the last row (R135, log 6). -/
theorem accumRows_pidx (h : HTable) (n : Nat) (t : TxRegs) :
    (t.accumRows h (n + 1)).pidx = BitVec.ofNat 10 n := by
  rw [accumRows_succ]
  rfl

section encode
variable (h : HTable) (data : Bytes) (t : TxRegs)

theorem loadInfo_bitUnpack_ibits :
    (t.loadInfo data).bitUnpack.ibits = (List.range 2064).map (streamBit data) := by
  rw [TxRegs.bitUnpack_ibits, TxRegs.loadInfo_info]

theorem fecRun_ibits_getElem? {j : Nat} (hj : j < 2064) :
    (t.fecRun h data).ibits[j]? = some (infoBit data j) := by
  rw [fecRun_ibits, List.getElem?_map, List.getElem?_range hj]
  rfl

theorem fecRun_pbits_getElem? {p : Nat} (hp : p < 516) :
    (t.fecRun h data).pbits[p]? = some (parityBit h data p) := by
  obtain ⟨-, hpbits⟩ := accumRows_closed_form (h := h) (loadInfo_bitUnpack_ibits data t) 516
  rw [fecRun_pbits, hpbits p hp]

theorem fecRun_prev_eq : (t.fecRun h data).prev = parityBit h data 515 := by
  obtain ⟨hprev, -⟩ := accumRows_closed_form (h := h) (loadInfo_bitUnpack_ibits data t) 516
  rw [fecRun_prev, hprev, parityBit_eq_xorOver]

theorem fecRun_pidx_eq : (t.fecRun h data).pidx = 515 := by
  rw [fecRun_pidx]
  exact accumRows_pidx h 515 _

/-- `PARB` after an encode is the parity of the block (R136, R137). -/
theorem fecRun_isParity : IsParity h data (t.fecRun h data).parb := by
  have hpacked : ∀ q, q < 520 →
      infoBit (t.fecRun h data).parb q = paddedParityBit (t.fecRun h data).pbits q := by
    intro q hq
    rw [fecRun_parb, infoBit_map_packByte 65 _ q hq]
  refine ⟨by rw [fecRun_eq, bitPack_parb_length], fun p hp => ?_, fun q hlow hhigh => ?_⟩
  · rw [hpacked p (by omega), paddedParityBit, if_pos (by omega), List.getD_eq_getElem?_getD,
      fecRun_pbits_getElem? h data t hp, Option.getD_some]
  · rw [hpacked q hhigh, paddedParityBit, if_neg (by omega)]

end encode

/-! ### The parity of a block -/

/-- A block has one parity: its 520 bits are given (R136, R137). -/
theorem isParity_unique {h : HTable} {info par par' : Bytes} (hpar : IsParity h info par)
    (hpar' : IsParity h info par') : par = par' := by
  obtain ⟨hlen, hbits, hpad⟩ := hpar
  obtain ⟨hlen', hbits', hpad'⟩ := hpar'
  refine eq_of_infoBit_eq (hlen.trans hlen'.symm) fun q hq => ?_
  by_cases hp : q < 516
  · rw [hbits q hp, hbits' q hp]
  · have hlow : 516 ≤ q := Nat.le_of_not_lt hp
    rw [hpad q hlow (by omega), hpad' q hlow (by omega)]

theorem rowXor_xorBytes (h : HTable) {a b : Bytes} (hlen : a.length = b.length) (p : Nat) :
    rowXor h (xorBytes a b) p = (rowXor h a p ^^ rowXor h b p) := by
  simp only [rowXor_eq_xorOver, infoBit_xorBytes hlen, xorOver_xor]

theorem parityBit_xorBytes (h : HTable) {a b : Bytes} (hlen : a.length = b.length) (p : Nat) :
    parityBit h (xorBytes a b) p = (parityBit h a p ^^ parityBit h b p) := by
  have hrows : rowXor h (xorBytes a b) = fun p => rowXor h a p ^^ rowXor h b p :=
    funext (rowXor_xorBytes h hlen)
  rw [parityBit_eq_xorOver, hrows, xorOver_xor]
  rfl

/-- The parity of the XOR of two blocks is the XOR of their parities (R139). -/
theorem isParity_xorBytes {h : HTable} {a b pa pb : Bytes} (hlen : a.length = b.length)
    (ha : IsParity h a pa) (hb : IsParity h b pb) :
    IsParity h (xorBytes a b) (xorBytes pa pb) := by
  obtain ⟨halen, habits, hapad⟩ := ha
  obtain ⟨hblen, hbbits, hbpad⟩ := hb
  have hplen : pa.length = pb.length := halen.trans hblen.symm
  refine ⟨by simp [xorBytes, halen, hblen], fun p hp => ?_, fun q hlow hhigh => ?_⟩
  · rw [infoBit_xorBytes hplen, habits p hp, hbbits p hp, parityBit_xorBytes h hlen]
  · rw [infoBit_xorBytes hplen, hapad q hlow hhigh, hbpad q hlow hhigh, Bool.xor_false]

/-- A block whose row sums are all 0 has zero parity (R136). -/
theorem isParity_zeros_of_rowXor {h : HTable} {info : Bytes}
    (hrows : ∀ p, rowXor h info p = false) : IsParity h info (rep 0x00 65) := by
  refine ⟨rep_length _ _, fun p _ => ?_, fun q _ _ => infoBit_zeros 65 q⟩
  rw [infoBit_zeros, parityBit_eq_xorOver, funext hrows, xorOver_false]

theorem rowXor_zeros (h : HTable) (p : Nat) : rowXor h (rep 0x00 258) p = false := by
  simp only [rowXor_eq_xorOver, infoBit_zeros, xorOver_false]

/-- A row selects 12 bits, an even number, so ones cancel (R133, R139). -/
theorem rowXor_ones (h : HTable) (p : Nat) : rowXor h (rep 0xFF 258) p = false := by
  rw [rowXor_eq_xorOver]
  calc xorOver 12 (fun i => infoBit (rep 0xFF 258) (tableEntry h p i - 1))
      = xorOver 12 (fun _ => true) :=
        xorOver_congr fun i _ => infoBit_ones (tableEntry_sub_one_lt h p i)
    _ = false := rfl

/-! ### The command -/

/-- `FEC_ENCODE` of an information block runs the encode, emits `PARB` and touches nothing else
(R141). -/
theorem exec_fecEncode_of_length {data : Bytes} (hlen : data.length = 258) (s : State) :
    ∃ t, exec (.fecEncode data) s = .next t ∧ t.tx = s.tx.fecRun Config.hrows data ∧
      t.out = s.out ++ [.parity t.tx.parb] ∧ SameButTransmit s t := by
  have hexec : exec (.fecEncode data) s = .next _ :=
    congrArg Host.Outcome.next (fecEncodeWith_of_length Config.hrows data s hlen)
  generalize s.tx.fecRun Config.hrows data = x at hexec ⊢
  exact ⟨(s.withTx x).emit (.parity x.parb), hexec, rfl, rfl, emit_withTx_eq s x _⟩

/-- The record of `FEC_ENCODE` carries the parity of the block. -/
theorem exec_fecEncode_of_isParity {data par : Bytes} (hlen : data.length = 258)
    (hpar : IsParity Config.hrows data par) (s : State) :
    ∃ t, exec (.fecEncode data) s = .next t ∧ t.out = s.out ++ [.parity par] := by
  obtain ⟨t, hexec, htx, hout, -⟩ := exec_fecEncode_of_length hlen s
  have hparb : t.tx.parb = par := by
    rw [htx]
    exact isParity_unique (fecRun_isParity Config.hrows data s.tx) hpar
  exact ⟨t, hexec, by rw [hout, hparb]⟩

/-- `E_FECLEN` as the spec lists it: code 0x02, sticky bit 1, the length (R281, R290). -/
theorem raise_fecLen_eq_withError (len : Half) (s : State) :
    s.raise (.fecLen len) = withError 0x02 1 (.length len) s := rfl

/-- `FEC_ENCODE` of any other length only raises (R131). -/
theorem exec_fecEncode_of_wrong_length {data : Bytes} (hlen : data.length ≠ 258) (s : State) :
    exec (.fecEncode data) s =
      .next (withError 0x02 1 (.length (BitVec.ofNat 16 data.length)) s) := by
  rw [← raise_fecLen_eq_withError, ← fecEncodeWith_of_wrong_length Config.hrows data s hlen]
  rfl

end Sys2Proof.Machine

namespace Sys2Proof.Proofs

open Sys2Proof.Machine Sys2Proof.Spec

/-- Settles O20: the encode writes working registers, and `PARB`, which the record carries, is the
parity of the block. -/
theorem fecEncodeEmitsTheClosedFormParity : Obligations.FecEncodeEmitsTheClosedFormParity := by
  intro data s hlen
  obtain ⟨t, hexec, htx, hout, hsame⟩ := exec_fecEncode_of_length hlen s
  have hpar : IsParity Config.hrows data t.tx.parb := htx ▸ fecRun_isParity Config.hrows data s.tx
  exact ⟨t, t.tx.parb, hexec, hpar, hout ▸ hsame⟩

/-- Settles O21: each parity bit of the closed form adds one row sum to the bit before it. -/
theorem neighbouringParityBitsCheckTheRows : Obligations.NeighbouringParityBitsCheckTheRows := by
  intro data s hlen
  have hpar := fecRun_isParity Config.hrows data s.tx
  obtain ⟨t, hexec, hout⟩ := exec_fecEncode_of_isParity hlen hpar s
  obtain ⟨-, hbits, -⟩ := hpar
  refine ⟨t, _, hexec, hout, ?_, fun p hpos hp => ?_⟩
  · rw [hbits 0 (by decide), parityBit_zero]
  · obtain ⟨p, rfl⟩ := Nat.exists_eq_succ_of_ne_zero (Nat.ne_of_gt hpos)
    rw [hbits _ hp, Nat.succ_sub_one, hbits p (Nat.lt_of_succ_lt hp), parityBit_succ_xor]

/-- Settles O23: parity is linear and unique, so the parity of `a XOR b` is the one emitted; the row
sums of the two constant blocks are 0. -/
theorem encoderIsLinear : Obligations.EncoderIsLinear := by
  refine ⟨fun a b s ha hb => ?_, fun s => ?_, fun s => ?_⟩
  · have hlen : a.length = b.length := ha.trans hb.symm
    have hxor : (xorBytes a b).length = 258 := by simp [xorBytes, ha, hb]
    have hpa := fecRun_isParity Config.hrows a s.tx
    have hpb := fecRun_isParity Config.hrows b s.tx
    obtain ⟨ta, hexecA, houtA⟩ := exec_fecEncode_of_isParity ha hpa s
    obtain ⟨tb, hexecB, houtB⟩ := exec_fecEncode_of_isParity hb hpb s
    obtain ⟨tc, hexecC, houtC⟩ :=
      exec_fecEncode_of_isParity hxor (isParity_xorBytes hlen hpa hpb) s
    exact ⟨ta, tb, tc, _, _, hexecA, houtA, hexecB, houtB, hexecC, houtC⟩
  · exact exec_fecEncode_of_isParity (rep_length _ _)
      (isParity_zeros_of_rowXor (rowXor_zeros Config.hrows)) s
  · exact exec_fecEncode_of_isParity (rep_length _ _)
      (isParity_zeros_of_rowXor (rowXor_ones Config.hrows)) s

/-- Settles O24: register by register, what the encode leaves. -/
theorem encodeWorkingRegisters : Obligations.EncodeWorkingRegisters := by
  intro data s hlen
  obtain ⟨t, hexec, htx, hout, -⟩ := exec_fecEncode_of_length hlen s
  refine ⟨t, t.tx.parb, hexec, hout, ?_⟩
  rw [htx]
  exact ⟨fecRun_info _ data _, rfl, fun _ hj => fecRun_ibits_getElem? _ data _ hj,
    fun _ hp => fecRun_pbits_getElem? _ data _ hp, fecRun_prev_eq _ data _, fecRun_pidx_eq _ data _⟩

/-- Settles O22: a wrong length raises; an encode and a frame write no error register. -/
theorem fecEncodeRefusesWrongLengths : Obligations.FecEncodeRefusesWrongLengths := by
  refine ⟨fun data s hlen => exec_fecEncode_of_wrong_length hlen s, fun data s hlen => ?_,
    fun fec data s => ?_⟩
  · obtain ⟨t, hexec, -, -, hsame⟩ := exec_fecEncode_of_length hlen s
    have hsticky := congrArg State.esticky hsame
    have hlast := congrArg State.elast hsame
    exact ⟨t, hexec, hsticky, hlast⟩
  · exact ⟨frameWith Config.hrows fec data s, rfl, frameWith_esticky s Config.hrows fec data,
      frameWith_elast s Config.hrows fec data⟩

end Sys2Proof.Proofs
end

section
/-! The checksum and the transmit framer (41_crc_framer.md R150 to R157): the register of the block
follows the bit procedure on natural numbers, a register that is not 0 stays so over zero bytes, and
every frame is the head, the padded payload, its checksum and, with `fec`, the parity of both. -/

namespace Sys2Proof

theorem lo8_toNat (v : Half) : (lo8 v).toNat = v.toNat % 256 := by
  rw [lo8, BitVec.extractLsb'_toNat, Nat.shiftRight_zero]

theorem hi8_toNat (v : Half) : (hi8 v).toNat = v.toNat / 256 := by
  have hv : v.toNat < 65536 := v.isLt
  rw [hi8, BitVec.extractLsb'_toNat, Nat.shiftRight_eq_div_pow]
  exact Nat.mod_eq_of_lt (by omega)

/-- A byte in the high half is the byte times 256 (R150). -/
theorem pair16_zero_toNat (b : Byte) : (pair16 b 0).toNat = b.toNat * 256 := by
  rw [pair16, BitVec.toNat_append, Nat.shiftLeft_eq]
  exact Nat.or_zero _

/-- A byte whose four low bits are 0 is a multiple of 16. -/
theorem byte_mod_sixteen {b : Byte} (hbits : ∀ i, i < 4 → b.getLsbD i = false) :
    b.toNat % 16 = 0 := by
  refine Nat.eq_of_testBit_eq fun i => ?_
  rw [Nat.zero_testBit, show 16 = 2 ^ 4 from rfl, Nat.testBit_mod_two_pow]
  by_cases hi : i < 4
  · rw [BitVec.testBit_toNat, hbits i hi, Bool.and_false]
  · rw [decide_eq_false hi, Bool.false_and]

end Sys2Proof

namespace Sys2Proof.Machine

open Sys2Proof.Spec

/-! ### The checksum register -/

/-- One shift of the register is the shift on natural numbers (R150). -/
theorem crcShift_toNat : Function.Semiconj BitVec.toNat crcShift crcShiftNat := by
  intro c
  have hdouble : (c * 2).toNat = c.toNat * 2 % 65536 := BitVec.toNat_mul c 2
  unfold crcShift crcShiftNat
  have htop : 0x8000#16 ≤ c ↔ c.toNat ≥ 0x8000 := BitVec.le_def
  by_cases hc : 0x8000#16 ≤ c
  · rw [if_pos hc, if_pos (htop.1 hc), BitVec.toNat_xor, hdouble]
    rfl
  · rw [if_neg hc, if_neg (mt htop.2 hc), hdouble]

theorem crcByte_toNat (c : Half) (b : Byte) :
    (crcByte c b).toNat = crcShiftNat^[8] (c.toNat ^^^ (b.toNat * 256)) := by
  rw [crcByte, crcShift_toNat.iterate_right 8, BitVec.toNat_xor, pair16_zero_toNat]

/-- The checksum is the bit procedure on natural numbers (R150). -/
theorem crc16_toNat (B : Bytes) : (crc16 B).toNat = crcNat B := by
  have hinit : Config.crcInit.toNat = 0xFFFF := rfl
  rw [crc16, crcFrom, crcNat, ← hinit]
  refine (List.foldl_hom BitVec.toNat fun c b => ?_).symm
  exact (crcByte_toNat c b).symm

/-- A shift clears no register that is not 0: with bit 15 set the polynomial sets bit 0, and
otherwise no bit is lost (R150). -/
theorem crcShift_ne_zero {c : Half} (hc : c ≠ 0) : crcShift c ≠ 0 := by
  unfold crcShift
  split
  · intro hzero
    rw [show (0 : Half) = 0#16 from rfl, BitVec.xor_eq_zero_iff] at hzero
    bv_omega
  · next htop => bv_omega

theorem crcShift_iterate_ne_zero {c : Half} (hc : c ≠ 0) (n : Nat) : crcShift^[n] c ≠ 0 := by
  induction n with
  | zero => exact hc
  | succ n ih =>
    rw [Function.iterate_succ_apply']
    exact crcShift_ne_zero ih

/-- Zero bytes never clear the register (R150). -/
theorem crcFrom_zeros_ne_zero {c : Half} (hc : c ≠ 0) (n : Nat) : crcFrom c (rep 0x00 n) ≠ 0 := by
  induction n generalizing c with
  | zero => exact hc
  | succ n ih =>
    rw [rep, List.replicate_succ, crcFrom, List.foldl_cons]
    refine ih ?_
    rw [crcByte, show pair16 0x00 0 = 0#16 from rfl, BitVec.xor_zero]
    exact crcShift_iterate_ne_zero hc 8

/-! ### The frames the block builds -/

/-- The framer's preamble and the unique word are the fixed head (R72, R154). -/
theorem frameBytes_framePreamble (payload : Bytes) (checksum : Half) (parity : Bytes) :
    frameBytes framePreamble payload checksum parity =
      frameHead ++ payload ++ [lo8 checksum, hi8 checksum] ++ parity := rfl

/-- The information block of a frame with parity: the padded payload and its checksum (R155). -/
def frameBlock (data : Bytes) : Bytes :=
  padTruncBytes data ++ le16Bytes (crc16 (padTruncBytes data))

/-- The frame of a payload, with the given bytes after the checksum (R154, R155). -/
def frameOf (data parity : Bytes) : Bytes :=
  frameBytes framePreamble (padTruncBytes data) (crc16 (padTruncBytes data)) parity

/-- `FRAME` writes working registers and emits the frame of the payload, with the parity of its
block when `fec` is set (R154 to R156). -/
theorem exec_frame {data par : Bytes} (hpar : IsParity Config.hrows (frameBlock data) par)
    (fec : Bool) (s : State) :
    ∃ x, exec (.frame fec data) s =
      .next ((s.withTx x).emit (.frame (frameOf data (if fec then par else [])))) := by
  cases fec
  case false => exact ⟨_, congrArg Host.Outcome.next (frameWith_false Config.hrows data s)⟩
  case true =>
    have hbuilt : builtFrame1 Config.hrows data s.tx = frameOf data par :=
      congrArg (frameOf data) (isParity_unique (fecRun_isParity _ _ _) hpar)
    have hframe := frameWith_true Config.hrows data s
    rw [hbuilt] at hframe
    exact ⟨_, congrArg Host.Outcome.next hframe⟩

theorem frameOf_length (data parity : Bytes) :
    (frameOf data parity).length = 278 + parity.length := by
  have hpreamble : framePreamble.length = 16 := rep_length _ _
  rw [frameOf, frameBytes_length, padTruncBytes_length, hpreamble]
  omega

theorem frameOf_take_head (data parity : Bytes) : (frameOf data parity).take 20 = frameHead := by
  rw [frameOf, frameBytes_framePreamble, List.append_assoc, List.append_assoc]
  exact List.take_left' rfl

/-- With parity, a frame begins with the one without (R154, R155). -/
theorem frameOf_eq_append_parity (data parity : Bytes) :
    frameOf data parity = frameOf data [] ++ parity := by
  rw [frameOf, frameOf, frameBytes, frameBytes, List.append_nil]

/-- The checksum field of a frame is the checksum of its payload field (R153, R157). -/
theorem frameOf_checksum (data : Bytes) {parity : Bytes} (hparity : parity.length ≤ 65) :
    crc16 (memRead (frameOf data parity) 20 256) = le16 (frameOf data parity) 276 := by
  obtain ⟨-, -, hpayload, hchecksum, -⟩ := frameBytes_fields framePreamble (padTruncBytes data)
    (crc16 (padTruncBytes data)) parity (rep_length _ _) (padTruncBytes_length data) hparity
  rw [frameOf, hpayload, hchecksum]

/-- The four padding bits of a parity are the low bits of its last byte (R137). -/
theorem isParity_last_byte_mod {h : HTable} {info par : Bytes} (hpar : IsParity h info par) :
    (byteAt par 64).toNat % 16 = 0 := by
  obtain ⟨-, -, hpad⟩ := hpar
  refine byte_mod_sixteen fun i hi => ?_
  rw [← hpad (8 * 64 + (7 - i)) (by omega) (by omega), infoBit_of_byte par 64 i (by omega), byteAt]

end Sys2Proof.Machine

namespace Sys2Proof.Proofs

open Sys2Proof.Machine Sys2Proof.Spec

/-- Settles O25: the register follows the procedure shift by shift; it starts at 0xFFFF, and zero
bytes do not clear it. -/
theorem checksumFollowsTheBitProcedure : Obligations.ChecksumFollowsTheBitProcedure :=
  ⟨crc16_toNat, rfl, crcFrom_zeros_ne_zero (by decide), by decide +kernel, by decide +kernel⟩

/-- Settles O26: the two bytes of the record are the halves of the checksum. -/
theorem checksumCommandEmitsTheChecksum : Obligations.ChecksumCommandEmitsTheChecksum := by
  intro data s
  refine ⟨crcCommand data s, lo8 (crc16 data), hi8 (crc16 data), rfl, ?_, ?_, rfl⟩
  · rw [lo8_toNat, crc16_toNat]
  · rw [hi8_toNat, crc16_toNat]

/-- Settles O27: the frame is the head, the padded payload, the checksum and the parity that the
encoder computes for them. -/
theorem frameCommandBuildsTheFrame : Obligations.FrameCommandBuildsTheFrame := by
  intro fec data s
  have hpar := fecRun_isParity Config.hrows (frameBlock data) s.tx
  obtain ⟨x, hexec⟩ := exec_frame hpar fec s
  exact ⟨_, padTruncBytes data, _, hexec, isPadded_padTruncBytes data, hpar,
    emit_withTx_eq s x _⟩

/-- Settles O28: both frames of a payload are one frame without parity, and the parity follows it in
the second. -/
theorem everyFrameIsWellFormed : Obligations.EveryFrameIsWellFormed := by
  intro data s
  have hpar := fecRun_isParity Config.hrows (frameBlock data) s.tx
  generalize (s.tx.fecRun Config.hrows (frameBlock data)).parb = par at hpar
  obtain ⟨x0, hexec0⟩ := exec_frame hpar false s
  obtain ⟨x1, hexec1⟩ := exec_frame hpar true s
  have ⟨hlen, _, _⟩ := hpar
  have hlen0 : (frameOf data []).length = 278 := frameOf_length data []
  refine ⟨_, frameOf data [], _, frameOf data par, hexec0, rfl, hexec1, rfl, hlen0, ?_,
    frameOf_take_head data [], frameOf_take_head data par,
    frameOf_checksum data (Nat.zero_le 65), frameOf_checksum data hlen.le, ?_, ?_⟩
  · rw [frameOf_length, hlen]
  · rw [frameOf_eq_append_parity, ← hlen0]
    exact List.take_left
  · rw [frameOf_eq_append_parity, byteAt_append_right _ _ 342 (by omega), hlen0]
    exact isParity_last_byte_mod hpar

end Sys2Proof.Proofs
end

section
/-! One received byte and one received frame (42_rx_recognizer.md R170 to R178): the recognizer's
step stated on the fields it writes, and the end of a frame as the delivery of what was captured. -/

namespace Sys2Proof.Machine

open Sys2Proof.Spec

/-- `RX_BYTES` of one byte is one step of the recognizer (R171). -/
theorem exec_rxBytes_singleton (now : TimeStamp) (b : Byte) (s : State) :
    exec (.rxBytes now [b]) s = .next (byteStep Config.ibufCap now s b) := rfl

/-- A byte stored inside `RXF_BUF` replaces the one at `RXF_CNT` and counts (R174). -/
theorem storeByte_eq_set (b : Byte) {s : State} (hcnt : s.rxfCnt.toNat < s.rxfBuf.length) :
    storeByte b s =
      { s with rxfBuf := s.rxfBuf.set s.rxfCnt.toNat b, rxfCnt := s.rxfCnt + 1 } := by
  rw [← storeByte_rxfBuf_set b s hcnt]
  rfl

/-- The end of a frame delivers the first 256 bytes of the buffer with the two after them as the
checksum, low byte first (R175 to R178). -/
theorem frameEnd_eq_delivered (now : TimeStamp) (s : State) :
    frameEnd Config.ibufCap now s =
      delivered now (s.rxfBuf.take 256) (byteAt s.rxfBuf 257 ++ byteAt s.rxfBuf 256) s := rfl

/-- A delivery starts from the state after the return to `HUNT` (R178). -/
theorem delivered_congr (now : TimeStamp) (payload : Bytes) (received : Half) {s t : State}
    (h : afterFrame s = afterFrame t) :
    delivered now payload received s = delivered now payload received t := by
  rw [delivered, delivered, h]

/-- The last byte of a frame is stored, and the frame delivered (R174, R175). -/
theorem byteStep_last_eq_delivered (now : TimeStamp) (b : Byte) {s : State} {buf : Bytes}
    (hs : s.rxfState = .capture) (hcnt : s.rxfCnt.toNat < s.rxfBuf.length)
    (hlast : s.rxfCnt + 1 = s.rxfLen) (hbuf : buf = s.rxfBuf.set s.rxfCnt.toNat b) :
    byteStep Config.ibufCap now s b =
      delivered now (buf.take 256) (byteAt buf 257 ++ byteAt buf 256) { s with rxfBuf := buf } := by
  subst hbuf
  rw [byteStep_of_last _ now b hs hlast, storeByte_eq_set b hcnt, frameEnd_eq_delivered]
  exact delivered_congr now _ _ rfl

/-- A frame that arrives in `HUNT` is delivered; what it leaves beside that is the latched length,
and its payload, checksum and parity at the start of the buffer (R170, R173 to R178, R181). -/
theorem rxRun_frameBytes_eq_delivered (now : TimeStamp) {preamble payload : Bytes}
    (checksum : Half) {parity : Bytes} {s : State} (hs : s.rxfState = .hunt)
    (hpre : (0x01 : Byte) ∉ preamble) (hpay : payload.length = 256)
    (hlen : parity.length + 258 = (captureLen s.cfg).toNat) :
    rxRun Config.ibufCap now (frameBytes preamble payload checksum parity) s =
      delivered now payload checksum
        { s with
          rxfLen := captureLen s.cfg
          rxfBuf := payload ++ le16Bytes checksum ++ parity ++
            s.rxfBuf.drop (parity.length + 258) } := by
  have hbody : (payload ++ le16Bytes checksum ++ parity).length = parity.length + 258 := by
    simp only [List.length_append, le16Bytes_length, hpay]
    omega
  have hbuf := captured_rxfBuf (payload ++ le16Bytes checksum ++ parity)
    (uwMatch { s with rxfWin := Config.uniqueWordValue })
  rw [hbody] at hbuf
  rw [rxRun_frameBytes _ now checksum hs hpre hpay hlen, frameEnd_captured _ now checksum _ _ hpay]
  refine delivered_congr now payload checksum
    (s := captured _ (uwMatch { s with rxfWin := Config.uniqueWordValue })) ?_
  rw [afterFrame, hbuf]
  rfl

theorem captureLen_of_rxfec {cfg : Byte} (h : cfg.getLsbD 0 = true) : captureLen cfg = 323 :=
  if_pos h

theorem captureLen_of_not_rxfec {cfg : Byte} (h : cfg.getLsbD 0 = false) :
    captureLen cfg = 258 := by
  rw [captureLen, cfgRxfec, h]
  rfl

end Sys2Proof.Machine

namespace Sys2Proof.Proofs

open Sys2Proof.Machine Sys2Proof.Spec

/-- Settles O33: the recognizer goes through the bytes one by one. -/
theorem receivedBytesMayBeSplit : Obligations.ReceivedBytesMayBeSplit := by
  refine ⟨fun now s => exec_rxBytes now [] s, fun now a b s => ?_⟩
  refine ⟨rxRun Config.ibufCap now a s, exec_rxBytes now a s, ?_⟩
  rw [exec_rxBytes, exec_rxBytes, rxRun_append]

/-- Settles O30: `w` is the window after the byte, and a window that matches latches the length. -/
theorem byteInHunt : Obligations.ByteInHunt := by
  intro now b s w hs hw
  obtain rfl : w = windowAfter s.rxfWin b :=
    BitVec.eq_of_toNat_eq (hw.trans (windowAfter_toNat s.rxfWin b).symm)
  rw [exec_rxBytes_singleton]
  refine ⟨fun hmatch => ?_, fun hno => ?_⟩
  · rw [byteStep_of_match _ now b hs hmatch, hmatch]
    rfl
  · rw [byteStep_of_no_match _ now b hs hno]

/-- Settles O31: the byte is stored, and the count stays below the latched length. -/
theorem byteInCapture : Obligations.ByteInCapture := by
  intro now b s hs hbuf hcnt hnot
  rw [exec_rxBytes_singleton, byteStep_of_not_last _ now b hs hnot,
    storeByte_eq_set b (hbuf ▸ hcnt)]

/-- Settles O32: the byte fills the latched length, so the buffer with it in is delivered. -/
theorem byteThatEndsAFrame : Obligations.ByteThatEndsAFrame := by
  intro now b s buf hs hlen hcnt hlast hbuf
  rw [exec_rxBytes_singleton, byteStep_last_eq_delivered now b hs (hlen ▸ hcnt) hlast hbuf]

/-- Settles O35: with `RXFEC = 0` the latched length is that of payload and checksum. -/
theorem frameWithoutParityIsReceived : Obligations.FrameWithoutParityIsReceived := by
  intro now preamble payload checksum s hwf hpre hs hcfg
  obtain ⟨-, hpay⟩ := (frame0_wellFormed_iff now preamble payload checksum).1 hwf
  have hlatch := captureLen_of_not_rxfec hcfg
  have hrun := rxRun_frameBytes_eq_delivered now checksum (parity := []) hs hpre hpay
    (by rw [hlatch]; rfl)
  rw [hlatch, List.append_nil] at hrun
  exact congrArg Host.Outcome.next hrun

/-- Settles O36: with `RXFEC = 1` the latched length is that of payload, checksum and parity. -/
theorem frameWithParityIsReceived : Obligations.FrameWithParityIsReceived := by
  intro now preamble payload checksum parity s hwf hpre hs hcfg
  obtain ⟨-, hpay, hpar⟩ := (frame1_wellFormed_iff now preamble payload checksum parity).1 hwf
  have hlatch := captureLen_of_rxfec hcfg
  have hrun := rxRun_frameBytes_eq_delivered now checksum (parity := parity) hs hpre hpay
    (by rw [hlatch, hpar]; rfl)
  rw [hlatch, hpar] at hrun
  exact congrArg Host.Outcome.next hrun

end Sys2Proof.Proofs
end

section
/-! What the receive path never reads (42_rx_recognizer.md R181, 45_system_ops.md R265): a payload
is classified by its own bytes, the reassembler and `NCAD`, so a change of `CFG` or of `RXF_BUF` beside
it stays a change of `CFG` or of `RXF_BUF`. -/

namespace Sys2Proof.Machine

open Sys2Proof.Spec

/-! ### Changes that a classifier does not see -/

/-- A change of the state outside what classifying reads or writes: it keeps the reassembler and the
cadence, and it may be made before or after a record, an error or a new context. -/
structure UnseenByClassifier (f : State → State) : Prop where
  rsm : ∀ s, (f s).rsm = s.rsm
  ncad : ∀ s, (f s).ncad = s.ncad
  emit : ∀ r s, (f s).emit r = f (s.emit r)
  raise : ∀ e s, (f s).raise e = f (s.raise e)
  withRsm : ∀ r s, (f s).withRsm r = f (s.withRsm r)

/-- `CFG` replaced. -/
def State.withCfg (cfg : Byte) (s : State) : State := { s with cfg := cfg }

/-- `RXF_BUF` replaced. -/
def State.withRxfBuf (buf : Bytes) (s : State) : State := { s with rxfBuf := buf }

theorem withCfg_unseenByClassifier (cfg : Byte) : UnseenByClassifier (State.withCfg cfg) :=
  ⟨fun _ => rfl, fun _ => rfl, fun _ _ => rfl, fun _ _ => rfl, fun _ _ => rfl⟩

theorem withRxfBuf_unseenByClassifier (buf : Bytes) : UnseenByClassifier (State.withRxfBuf buf) :=
  ⟨fun _ => rfl, fun _ => rfl, fun _ _ => rfl, fun _ _ => rfl, fun _ _ => rfl⟩

/-- States that come from one state by replacing `RXF_BUF` differ in `RXF_BUF` alone. -/
theorem eq_update_of_withRxfBuf {s t u : State} {a b : Bytes} (ht : t = s.withRxfBuf a)
    (hu : u = s.withRxfBuf b) : u = { t with rxfBuf := u.rxfBuf } := by
  rw [ht, hu]
  rfl

section unseen
variable {f : State → State} (hf : UnseenByClassifier f) (cap : Option Nat) (now : TimeStamp)
  (slice : Bytes) (s : State)
include hf

theorem UnseenByClassifier.handleText : handleText slice (f s) = f (handleText slice s) := by
  unfold Machine.handleText
  split
  · exact hf.raise _ s
  · exact hf.emit _ s

theorem UnseenByClassifier.boundary (id : Byte) (code : Word) :
    boundary now id code slice (f s) = f (boundary now id code slice s) := by
  unfold Machine.boundary finalize
  rw [hf.rsm]
  cases s.rsm with
  | noImage => exact hf.withRsm _ s
  | accumulating ctx => exact (congrArg _ (hf.emit ctx.finalRecord s)).trans (hf.withRsm _ _)

theorem UnseenByClassifier.previewTest (ctx : Context) :
    previewTest ctx (f s) = f (previewTest ctx s) := by
  unfold Machine.previewTest
  rw [hf.ncad]
  split
  · exact hf.emit _ s
  · rfl

theorem UnseenByClassifier.appendSlice (ctx : Context) :
    appendSlice slice ctx (f s) = f (appendSlice slice ctx s) := by
  unfold Machine.appendSlice
  exact (congrArg _ (hf.withRsm _ s)).trans (hf.previewTest _ _)

theorem UnseenByClassifier.reassemble (id : Byte) (code : Word) :
    reassemble cap now id code slice (f s) = f (reassemble cap now id code slice s) := by
  unfold Machine.reassemble
  rw [hf.rsm]
  cases s.rsm with
  | noImage => exact hf.boundary now slice s id code
  | accumulating ctx =>
    simp only
    split
    · split
      · exact hf.raise _ s
      · exact hf.appendSlice slice s ctx
    · exact hf.boundary now slice s id code

/-- What classifying a slice does is the same with or without the change (R184). -/
theorem UnseenByClassifier.classify :
    classify cap now slice (f s) = f (classify cap now slice s) := by
  unfold Machine.classify
  cases packetTypeOf (byteAt slice 0) with
  | none => exact hf.raise _ s
  | some t =>
    cases t with
    | textMessage => exact hf.handleText slice s
    | ssdv => exact hf.reassemble cap now slice s _ _
    | idle => rfl
    | gpsTelemetry | orientationTelemetry | secPayloadTelemetry | imageTelemetry =>
      exact hf.emit _ s

/-- A payload is delivered the same with or without the change (R175 to R178). -/
theorem UnseenByClassifier.delivered (payload : Bytes) (received : Half)
    (hback : ∀ s, afterFrame (f s) = f (afterFrame s)) :
    delivered now payload received (f s) = f (delivered now payload received s) := by
  unfold Spec.delivered
  rw [hback]
  split
  · exact hf.classify Config.ibufCap now payload (afterFrame s)
  · exact hf.raise (.crc (crc16 payload) received) (afterFrame s)

end unseen

/-! ### A change of `CFG` while a frame is captured -/

/-- The end of a frame does not read `CFG` (R175, R265). -/
theorem frameEnd_withCfg (now : TimeStamp) (cfg : Byte) (s : State) :
    frameEnd Config.ibufCap now (s.withCfg cfg) = (frameEnd Config.ibufCap now s).withCfg cfg := by
  rw [frameEnd_eq_delivered, frameEnd_eq_delivered]
  exact (withCfg_unseenByClassifier cfg).delivered now s _ _ fun _ => rfl

/-- A count below the latched length, one byte on, is at the length or still below it. -/
theorem rxfCnt_succ_lt {s : State} (hlt : s.rxfCnt < s.rxfLen) (hnot : s.rxfCnt + 1 ≠ s.rxfLen) :
    s.rxfCnt + 1 < s.rxfLen ∧ (s.rxfCnt + 1).toNat = s.rxfCnt.toNat + 1 := by
  constructor
  · bv_omega
  · bv_omega

/-- Up to the last byte of a frame in capture, `CFG` is not read (R173, R265). -/
theorem rxRun_capture_withCfg (now : TimeStamp) (cfg : Byte) (data : Bytes) (s : State)
    (hs : s.rxfState = .capture) (hlt : s.rxfCnt < s.rxfLen)
    (hlen : data.length ≤ s.rxfLen.toNat - s.rxfCnt.toNat) :
    rxRun Config.ibufCap now data (s.withCfg cfg) =
      (rxRun Config.ibufCap now data s).withCfg cfg := by
  induction data generalizing s with
  | nil => rfl
  | cons b data ih =>
    rw [List.length_cons] at hlen
    have hs' : (s.withCfg cfg).rxfState = .capture := hs
    rw [rxRun_cons, rxRun_cons]
    by_cases hlast : s.rxfCnt + 1 = s.rxfLen
    · obtain rfl : data = [] := List.eq_nil_of_length_eq_zero (by bv_omega)
      rw [byteStep_of_last _ now b hs hlast, byteStep_of_last _ now b hs' hlast]
      exact frameEnd_withCfg now cfg (storeByte b s)
    · obtain ⟨hlt', hcnt⟩ := rxfCnt_succ_lt hlt hlast
      rw [byteStep_of_not_last _ now b hs hlast, byteStep_of_not_last _ now b hs' hlast]
      refine ih (storeByte b s) hs hlt' ?_
      rw [storeByte_rxfLen, storeByte_rxfCnt, hcnt]
      omega

end Sys2Proof.Machine

namespace Sys2Proof.Proofs

open Sys2Proof.Machine Sys2Proof.Spec

/-- Settles O37: both frames deliver the same payload from states that differ in `RXF_BUF` alone,
and a delivery does not see the buffer. -/
theorem receivedParityIsNeverRead : Obligations.ReceivedParityIsNeverRead := by
  intro now preamble payload checksum p q s hp hq hpre hs hcfg
  have hunseen : ∀ buf, delivered now payload checksum { s with rxfLen := 323, rxfBuf := buf } =
      (delivered now payload checksum { s with rxfLen := 323 }).withRxfBuf buf := fun buf =>
    (withRxfBuf_unseenByClassifier buf).delivered now { s with rxfLen := 323 } _ _ fun _ => rfl
  refine ⟨_, _, frameWithParityIsReceived now preamble payload checksum p s hp hpre hs hcfg,
    frameWithParityIsReceived now preamble payload checksum q s hq hpre hs hcfg, ?_⟩
  exact eq_update_of_withRxfBuf (hunseen _) (hunseen _)

/-- Settles O39: the capture and its end read the latched length, and never `CFG`. -/
theorem configChangeSparesTheFrameInCapture : Obligations.ConfigChangeSparesTheFrameInCapture := by
  intro now data s cfg hs hlt hlen
  exact ⟨_, exec_rxBytes now data s,
    congrArg Host.Outcome.next (rxRun_capture_withCfg now cfg data s hs hlt hlen)⟩

end Sys2Proof.Proofs
end

section
/-! Slices by command (42_rx_recognizer.md R182 to R186): a packet type's meaning is the classifier
on its encoding, so `RX_SLICE` runs whatever packet type its slice decodes to. -/

namespace Sys2Proof.Machine

open Sys2Proof.Spec

theorem exec_rxSlice (now : TimeStamp) (data : Bytes) (s : State) :
    exec (.rxSlice now data) s = .next (rxSliceWith Config.ibufCap now data s) := rfl

/-- A slice of a wrong length raises `E_SLICELEN` and is not classified (R183, R281). -/
theorem rxSliceWith_of_wrong_length (cap : Option Nat) (now : TimeStamp) {data : Bytes} (s : State)
    (h : data.length ≠ 256) :
    rxSliceWith cap now data s =
      withError 0x04 3 (.length (BitVec.ofNat 16 data.length)) s := by
  rw [rxSliceWith, if_pos h]
  rfl

/-- The instruction a slice decodes to is one of the slice format, with the `NOW` it was decoded
with (R97, R108). -/
theorem decodeSlice_ok_format_now {now : TimeStamp} {slice : Bytes} {i : Instr}
    (h : decodeSlice now slice = .ok i) :
    i.format = .slice ∧ ∀ n, i.now? = some n → n = now := by
  obtain ⟨-, t, -, rfl⟩ := (decodeSlice_eq_ok_iff now slice i).1 h
  cases t with
  | ssdv => exact ⟨rfl, fun _ hn => (Option.some.inj hn).symm⟩
  | textMessage | gpsTelemetry | orientationTelemetry | secPayloadTelemetry | imageTelemetry
  | idle => exact ⟨rfl, nofun⟩

/-- The meaning of a packet type is what the classifier does with its encoding: its first byte
selects the handler, and the handler takes the slice whole (R184, R230 to R236). -/
theorem exec_slice_eq_classify {i : Instr} {now : TimeStamp} (hformat : i.format = .slice)
    (hnow : ∀ n, i.now? = some n → n = now) (s : State) :
    exec i s = .next (classify Config.ibufCap now (encode i) s) := by
  cases i
  case textMessage | gpsTelemetry | orientationTelemetry | secPayloadTelemetry | imageTelemetry
    | idle => rfl
  case ssdv n header rest =>
    obtain rfl := hnow n rfl
    rfl
  all_goals exact absurd hformat nofun

/-- `RX_SLICE` of a slice that decodes runs the packet type (R182, R184). -/
theorem exec_rxSlice_of_decodeSlice {now : TimeStamp} {slice : Bytes} {i : Instr}
    (h : decodeSlice now slice = .ok i) (s : State) : exec (.rxSlice now slice) s = exec i s := by
  obtain ⟨hlen, -⟩ := (decodeSlice_eq_ok_iff now slice i).1 h
  obtain ⟨hformat, hnow⟩ := decodeSlice_ok_format_now h
  obtain ⟨-, hencode⟩ := encode_of_decodeSlice h
  rw [exec_rxSlice, rxSliceWith_of_length _ now s hlen, exec_slice_eq_classify hformat hnow,
    hencode]

/-! ### A slice placed at the port -/

/-- A table word of 8 bits decodes as the slice it stands for (log 11). -/
theorem decodeTableWord_eight {w : Nat} {i : Instr} (h : decodeTableWord 8 w = some i) :
    decodeSlice .zero (beBytesOfNat 1 w ++ rep 0 255) = .ok i := by
  have htable : decodeTableWord 8 w =
      (decodeSlice .zero (beBytesOfNat 1 w ++ rep 0 255)).toOption := rfl
  rw [htable] at h
  cases hdecode : decodeSlice .zero (beBytesOfNat 1 w ++ rep 0 255) with
  | error e =>
    rw [hdecode] at h
    cases h
  | ok j =>
    rw [hdecode] at h
    exact congrArg Except.ok (Option.some.inj h)

/-- An offer that is one `RX_SLICE` command runs it on the state without the offer (R260, log 4). -/
theorem step_offerFirst_rxSlice (now : TimeStamp) {data : Bytes} (hdata : data.length < 65536)
    (s : State) :
    step (offerFirst now (cmdBytes 0x11 0x00 data) s) = exec (.rxSlice now data) s := by
  obtain ⟨c, htake, hafter, hdecode⟩ :=
    decode_cmdBytes (o := .rxSlice) now [] (flags := 0x00) hdata ⟨rfl, rfl⟩
  rw [List.append_nil] at htake
  have hstep := Proofs.stepRunsTheDecodedCommand (offerFirst now (cmdBytes 0x11 0x00 data) s)
    ⟨now, cmdBytes 0x11 0x00 data⟩ s.port c _ rfl htake hdecode
  rw [hafter] at hstep
  exact hstep

end Sys2Proof.Machine

namespace Sys2Proof.Proofs

open Sys2Proof.Machine Sys2Proof.Spec

/-- Settles O40: the length is tested before the slice is classified. -/
theorem slicesOfWrongLengthAreRefused : Obligations.SlicesOfWrongLengthAreRefused := by
  intro now data s hlen
  rw [exec_rxSlice, rxSliceWith_of_wrong_length _ now s hlen]

/-- Settles O41: the command and the packet type are the same step, and every meaning completes. -/
theorem sliceCommandRunsItsPacketType : Obligations.SliceCommandRunsItsPacketType := by
  intro now slice i s h
  obtain ⟨t, ht⟩ := exec_total i s
  exact ⟨t, (exec_rxSlice_of_decodeSlice h s).trans ht, ht⟩

/-- Settles O42: each register outside the classifier is kept, and all that the command does to
`OUT` is to report. -/
theorem sliceCommandSparesTheRecognizer : Obligations.SliceCommandSparesTheRecognizer := by
  intro now data s
  have hexec := exec_rxSlice now data s
  refine ⟨rxSliceWith Config.ibufCap now data s, hexec, ?_, rxSliceWith_cfg s _ now data,
    rxSliceWith_ncad s _ now data, rxSliceWith_tx s _ now data, rxSliceWith_port s _ now data,
    (exec_reports (.rxSlice now data) s _ nofun hexec).out⟩
  exact ⟨rxSliceWith_rxfState s _ now data, rxSliceWith_rxfWin s _ now data,
    rxSliceWith_rxfCnt s _ now data, rxSliceWith_rxfLen s _ now data,
    rxSliceWith_rxfBuf s _ now data⟩

/-- Settles O11: the word is placed as an `RX_SLICE` command of the slice it stands for, and that
command runs the instruction the slice decodes to. -/
theorem placedSliceWordsRunTheirInstruction : Obligations.PlacedSliceWordsRunTheirInstruction := by
  intro w s i h
  have hdecode := decodeTableWord_eight h
  obtain ⟨hlen, -⟩ := (decodeSlice_eq_ok_iff _ _ i).1 hdecode
  have hplaced : s.withFetchWord 8 w =
      offerFirst .zero (cmdBytes 0x11 0x00 (beBytesOfNat 1 w ++ rep 0 255)) s := rfl
  rw [hplaced, step_offerFirst_rxSlice .zero (hlen ▸ by decide) s,
    exec_rxSlice_of_decodeSlice hdecode]

end Sys2Proof.Proofs
end

section
/-! What an error leaves (60_exceptions.md R290 to R292) and what the reassembler depends on
(43_reassembler.md R208 to R210): each unit either raises one error and nothing else or reports no
error at all, and only the classifier on an SSDV packet writes `RSM`. -/

namespace Sys2Proof.Machine

open Sys2Proof.Spec

/-! ### Units that raise -/

/-- A unit that went from `s` to `t` either raised one error and did nothing else, or reported no
error (R291). -/
def RaisesAloneOrNotAtAll (s t : State) : Prop :=
  (∃ e : BlockError, t = s.raise e) ∨
    ∃ recs, t.out = s.out ++ recs ∧ ∀ r ∈ recs, r.isError = false

theorem raisesAloneOrNotAtAll_of_raise (e : BlockError) (s : State) :
    RaisesAloneOrNotAtAll s (s.raise e) := .inl ⟨e, rfl⟩

theorem raisesAloneOrNotAtAll_of_out_eq {s t : State} (h : t.out = s.out) :
    RaisesAloneOrNotAtAll s t := .inr ⟨[], by rw [h, List.append_nil], nofun⟩

theorem raisesAloneOrNotAtAll_of_record {s t : State} (r : Record) (hr : r.isError = false)
    (h : t.out = s.out ++ [r]) : RaisesAloneOrNotAtAll s t :=
  .inr ⟨[r], h, List.forall_mem_singleton.2 hr⟩

/-- A unit with an error among its records wrote the two error registers and that one record
(R290, R291). -/
theorem RaisesAloneOrNotAtAll.eq_of_error {s t : State} (h : RaisesAloneOrNotAtAll s t)
    (herr : ∃ r ∈ newRecords s t, r.isError = true) :
    ∃ code info, t = { s with esticky := t.esticky, elast := code,
                              out := s.out ++ [.error code info] } := by
  obtain ⟨e, rfl⟩ | ⟨recs, hout, hquiet⟩ := h
  · exact ⟨e.code, e.info, rfl⟩
  · obtain ⟨r, hmem, hr⟩ := herr
    rw [newRecords_of_out hout] at hmem
    exact absurd (hr.symm.trans (hquiet r hmem)) nofun

theorem appendSlice_raisesAlone (slice : Bytes) (ctx : Context) (s : State) :
    RaisesAloneOrNotAtAll s (appendSlice slice ctx s) := by
  rcases appendSlice_cases slice ctx s with ⟨-, e⟩ | ⟨-, e⟩ <;> rw [e]
  · exact raisesAloneOrNotAtAll_of_out_eq rfl
  · exact raisesAloneOrNotAtAll_of_record (ctx.append slice).previewRecord rfl rfl

theorem reassemble_raisesAlone (cap : Option Nat) (now : TimeStamp) (id : Byte) (code : Word)
    (slice : Bytes) (s : State) :
    RaisesAloneOrNotAtAll s (reassemble cap now id code slice s) := by
  rcases reassemble_cases cap now id code slice s with
    ⟨-, e⟩ | ⟨ctx, -, -, e⟩ | ⟨-, -, -, -, e⟩ | ⟨ctx, -, -, -, e⟩ <;> rw [e]
  · exact raisesAloneOrNotAtAll_of_out_eq rfl
  · exact raisesAloneOrNotAtAll_of_record ctx.finalRecord rfl rfl
  · exact raisesAloneOrNotAtAll_of_raise _ s
  · exact appendSlice_raisesAlone slice ctx s

theorem classify_raisesAlone (cap : Option Nat) (now : TimeStamp) (slice : Bytes) (s : State) :
    RaisesAloneOrNotAtAll s (classify cap now slice s) := by
  rcases classify_cases cap now slice s with e | ⟨type, e⟩ | ⟨_, -, e⟩ | ⟨-, e⟩ <;> rw [e]
  · exact raisesAloneOrNotAtAll_of_out_eq rfl
  · exact raisesAloneOrNotAtAll_of_record (.telem type slice) rfl rfl
  · exact raisesAloneOrNotAtAll_of_raise _ s
  · exact reassemble_raisesAlone _ _ _ _ _ _

theorem rxSliceWith_raisesAlone (cap : Option Nat) (now : TimeStamp) (data : Bytes) (s : State) :
    RaisesAloneOrNotAtAll s (rxSliceWith cap now data s) := by
  unfold rxSliceWith
  split
  · exact raisesAloneOrNotAtAll_of_raise _ s
  · exact classify_raisesAlone cap now data s

theorem fecEncodeWith_raisesAlone (h : HTable) (data : Bytes) (s : State) :
    RaisesAloneOrNotAtAll s (fecEncodeWith h data s) := by
  by_cases hlen : data.length = 258
  · rw [fecEncodeWith_of_length h data s hlen]
    generalize s.tx.fecRun h data = x
    exact raisesAloneOrNotAtAll_of_record (.parity x.parb) rfl rfl
  · rw [fecEncodeWith_of_wrong_length h data s hlen]
    exact raisesAloneOrNotAtAll_of_raise _ s

theorem configure_raisesAlone (cfg : Byte) (ncad : Half) (s : State) :
    RaisesAloneOrNotAtAll s (configure cfg ncad s) := by
  unfold configure
  split
  · exact raisesAloneOrNotAtAll_of_raise _ s
  · exact raisesAloneOrNotAtAll_of_out_eq rfl

/-- The meaning of a packet type raises alone or not at all, as the classifier does (R230, R235). -/
theorem exec_slice_raisesAlone {i : Instr} (hformat : i.format = .slice) (s : State) :
    ∃ t, exec i s = .next t ∧ RaisesAloneOrNotAtAll s t := by
  have hnow : ∀ n, i.now? = some n → n = i.now?.getD .zero := fun n hn => by rw [hn]; rfl
  exact ⟨_, exec_slice_eq_classify hformat hnow s, classify_raisesAlone _ _ _ s⟩

/-- The end of a frame raises alone or not at all once the recognizer is back in `HUNT`
(R177, R178). -/
theorem delivered_raisesAlone (now : TimeStamp) (payload : Bytes) (received : Half) (s : State) :
    RaisesAloneOrNotAtAll (afterFrame s) (delivered now payload received s) := by
  unfold delivered
  split
  · exact classify_raisesAlone _ now payload (afterFrame s)
  · exact raisesAloneOrNotAtAll_of_raise (.crc (crc16 payload) received) (afterFrame s)

/-- A byte that ends no frame writes no record and leaves the reassembler alone (R172 to R174). -/
theorem byteStep_out_rsm_of_not_last (cap : Option Nat) (now : TimeStamp) (b : Byte) {s : State}
    (h : s.rxfState = .hunt ∨ s.rxfCnt + 1 ≠ s.rxfLen) :
    (byteStep cap now s b).out = s.out ∧ (byteStep cap now s b).rsm = s.rsm := by
  rcases byteStep_cases cap now b s with ⟨-, -, e⟩ | ⟨-, -, e⟩ | ⟨-, -, e⟩ | ⟨hs, hlast, -⟩
  · exact e ▸ ⟨rfl, rfl⟩
  · exact e ▸ ⟨rfl, rfl⟩
  · exact e ▸ ⟨rfl, rfl⟩
  · rw [hs] at h
    exact absurd hlast (h.resolve_left nofun)

/-- A fetched command that decodes to no instruction is illegal (R110, R264). -/
theorem step_of_fetch_of_takes_none {s : State} {f : Fetched} (hf : fetch s = some f)
    (hnone : ∀ i, ¬ TakesCommand s i) : step s = .next (illegalCommand f.header f.state) := by
  refine step_of_fetch_of_illegal s f hf (Option.eq_none_iff_forall_ne_some.2 fun o ho => ?_)
  exact hnone _ ⟨f, hf, (decodeCommand_eq_ok_iff f.now f.header f.data _).2 ⟨o, ho, rfl⟩⟩

/-! ### Units that leave the reassembler alone -/

/-- A packet of any type but `SSDV` leaves the reassembler alone (R208, R209). -/
theorem exec_slice_rsm {i : Instr} (hformat : i.format = .slice)
    (hi : ∀ now h rest, i ≠ .ssdv now h rest) (s : State) :
    ∃ t, exec i s = .next t ∧ t.rsm = s.rsm := by
  cases i
  case textMessage length seq rest => exact ⟨_, rfl, handleText_rsm s (textSlice length seq rest)⟩
  case gpsTelemetry | orientationTelemetry | secPayloadTelemetry | imageTelemetry | idle =>
    exact ⟨_, rfl, rfl⟩
  case ssdv now header rest => exact absurd rfl (hi now header rest)
  all_goals exact absurd hformat nofun

/-- A command that neither receives nor resets leaves the reassembler alone (R208, R210). -/
theorem exec_cmd_rsm {i : Instr} (hformat : i.format = .cmd) (hreset : i ≠ .reset)
    (hbytes : ∀ now data, i ≠ .rxBytes now data) (hslice : ∀ now data, i ≠ .rxSlice now data)
    (s : State) : ∃ t, exec i s = .next t ∧ t.rsm = s.rsm := by
  cases i
  case fecEncode data => exact ⟨_, rfl, fecEncodeWith_rsm s Config.hrows data⟩
  case crc16 data => exact ⟨_, rfl, crcCommand_rsm s data⟩
  case frame fec data => exact ⟨_, rfl, frameWith_rsm s Config.hrows fec data⟩
  case setConfig cfg ncad => exact ⟨_, rfl, configure_rsm s cfg ncad⟩
  case getStatus => exact ⟨_, rfl, rfl⟩
  case rxBytes now data => exact absurd rfl (hbytes now data)
  case rxSlice now data => exact absurd rfl (hslice now data)
  case reset => exact absurd rfl hreset
  all_goals exact absurd hformat nofun

/-- A slice that is refused, or is no SSDV packet, leaves the reassembler alone (R183, R185,
R209). -/
theorem rxSliceWith_rsm (cap : Option Nat) (now : TimeStamp) {data : Bytes} (s : State)
    (h : data.length ≠ 256 ∨ byteAt data 0 ≠ 0x55) : (rxSliceWith cap now data s).rsm = s.rsm := by
  unfold rxSliceWith
  split
  · rfl
  · next hlen => exact classify_rsm_of_not_ssdv cap now data s (h.resolve_left hlen)

/-- A payload with a wrong checksum, or that is no SSDV packet, leaves the reassembler alone (R177,
R210). -/
theorem delivered_rsm (now : TimeStamp) {payload : Bytes} {received : Half} (s : State)
    (h : crc16 payload ≠ received ∨ byteAt payload 0 ≠ 0x55) :
    (delivered now payload received s).rsm = s.rsm := by
  unfold delivered
  split
  · next hcrc =>
    exact classify_rsm_of_not_ssdv _ now payload (afterFrame s)
      (h.resolve_left (not_not_intro hcrc.symm))
  · rfl

/-- The first byte of a payload is that of the buffer it is read from (R175). -/
theorem byteAt_take_zero (B : Bytes) {n : Nat} (hn : 0 < n) : byteAt (B.take n) 0 = byteAt B 0 := by
  rw [byteAt, byteAt, List.getD_eq_getElem?_getD, List.getD_eq_getElem?_getD,
    List.getElem?_take_of_lt hn]

/-- A step that takes no command leaves the reassembler alone (R264). -/
theorem step_rsm_of_takes_none {s t : State} (hnone : ∀ i, ¬ TakesCommand s i)
    (h : step s = .next t) : t.rsm = s.rsm := by
  rcases step_cases s t h with ⟨-, rfl⟩ | ⟨f, i, hf, hi, -⟩ | ⟨f, -, hf, -, rfl⟩
  · rfl
  · exact absurd ⟨f, hf, hi⟩ (hnone i)
  · obtain ⟨p, hp⟩ := fetch_state s f hf
    rw [hp]
    rfl

/-- A frame is received as its bytes are (R170; log 9). -/
theorem exec_frame_eq_rxBytes {i : Instr} {now : TimeStamp}
    (hformat : i.format = .frame0 ∨ i.format = .frame1) (hnow : i.now? = some now) (s : State) :
    exec i s = exec (.rxBytes now (encode i)) s := by
  cases i
  case frame0 | frame1 =>
    cases hnow
    rfl
  all_goals exact absurd hformat (not_or_intro nofun nofun)

end Sys2Proof.Machine

namespace Sys2Proof.Proofs

open Sys2Proof.Machine Sys2Proof.Spec

/-- Settles O49: only the classifier on an SSDV packet writes the reassembler, and nothing else
reaches it. -/
theorem onlySsdvChangesTheReassembler : Obligations.OnlySsdvChangesTheReassembler := by
  refine ⟨fun i s hi => ?_, fun now data s h => ?_, fun s t hnone h => ?_, fun now b s h => ?_,
    fun now b s buf hs hlen hcnt hlast hbuf h => ?_, fun now b bs s => ?_,
    fun i now s hformat hnow => ?_⟩
  · obtain ⟨hformat, hssdv⟩ | ⟨hformat, hreset, hbytes, hslice⟩ := hi
    · exact exec_slice_rsm hformat hssdv s
    · exact exec_cmd_rsm hformat hreset hbytes hslice s
  · exact ⟨_, exec_rxSlice now data s, rxSliceWith_rsm _ now s h⟩
  · exact step_rsm_of_takes_none hnone h
  · obtain ⟨-, hrsm⟩ := byteStep_out_rsm_of_not_last Config.ibufCap now b h
    exact ⟨_, exec_rxBytes_singleton now b s, hrsm⟩
  · refine ⟨_, exec_rxBytes_singleton now b s, ?_⟩
    rw [byteStep_last_eq_delivered now b hs (hlen ▸ hcnt) hlast hbuf]
    exact delivered_rsm now _ (by rwa [byteAt_take_zero buf (by decide)])
  · exact ⟨_, exec_rxBytes_singleton now b s, rfl⟩
  · exact exec_frame_eq_rxBytes hformat hnow s

/-- Settles O51: a packet, a slice, an encode and a configuration raise alone or not at all; the
illegal command raises; a byte can raise only by ending a frame, after the return to `HUNT`. -/
theorem errorsLeaveNoPartialEffect : Obligations.ErrorsLeaveNoPartialEffect := by
  refine ⟨fun i s hi => ?_, fun s f hf hnone => ?_, fun now b s hlen hcnt => ?_⟩
  · have hunit : ∃ t, exec i s = .next t ∧ RaisesAloneOrNotAtAll s t := by
      obtain hformat | ⟨now, data, rfl⟩ | ⟨data, rfl⟩ | ⟨cfg, ncad, rfl⟩ := hi
      · exact exec_slice_raisesAlone hformat s
      · exact ⟨_, rfl, rxSliceWith_raisesAlone _ now data s⟩
      · exact ⟨_, rfl, fecEncodeWith_raisesAlone Config.hrows data s⟩
      · exact ⟨_, rfl, configure_raisesAlone cfg ncad s⟩
    obtain ⟨t, hexec, ht⟩ := hunit
    exact ⟨t, hexec, ht.eq_of_error⟩
  · refine ⟨_, step_of_fetch_of_takes_none hf hnone, ?_⟩
    obtain ⟨p, hp⟩ := fetch_state s f hf
    rw [hp]
    rfl
  · refine ⟨_, exec_rxBytes_singleton now b s, fun herr => ?_⟩
    by_cases hend : s.rxfState = .capture ∧ s.rxfCnt + 1 = s.rxfLen
    · obtain ⟨hs, hlast⟩ := hend
      rw [byteStep_last_eq_delivered now b hs (hlen ▸ hcnt) hlast rfl] at herr ⊢
      exact ⟨hs, hlast, (delivered_raisesAlone now _ _ _).eq_of_error herr⟩
    · have hnot : s.rxfState = .hunt ∨ s.rxfCnt + 1 ≠ s.rxfLen := by
        cases hs : s.rxfState with
        | hunt => exact .inl rfl
        | capture => exact .inr fun hlast => hend ⟨hs, hlast⟩
      obtain ⟨hout, -⟩ := byteStep_out_rsm_of_not_last Config.ibufCap now b hnot
      obtain ⟨r, hmem, -⟩ := herr
      rw [newRecords_of_out (recs := []) (by rw [hout, List.append_nil])] at hmem
      exact absurd hmem List.not_mem_nil

end Sys2Proof.Proofs
end

section
/-! The packets that are no image data (44_packet_types.md R231 to R236): telemetry is passed on
whole and an idle packet is ignored. -/

namespace Sys2Proof.Machine

/-- The packet types that are passed on unopened (R231 to R234). -/
def telemetryTypes : List PacketType :=
  [.gpsTelemetry, .orientationTelemetry, .secPayloadTelemetry, .imageTelemetry]

/-- The four telemetry types are dispatched by their type code alone: the whole slice goes out,
whatever it holds (R231 to R234). -/
theorem classify_of_telemetry (cap : Option Nat) (now : TimeStamp) {slice : Bytes}
    {type : PacketType} (htype : type ∈ telemetryTypes)
    (hcode : byteAt slice 0 = type.code) (s : State) :
    classify cap now slice s = s.emit (.telem type.code slice) := by
  have hselect : packetTypeOf (byteAt slice 0) = some type := (packetTypeOf_eq_some_iff _ _).2 hcode
  unfold classify
  rw [hselect]
  cases type
  case gpsTelemetry | orientationTelemetry | secPayloadTelemetry | imageTelemetry => rfl
  all_goals exact absurd htype (by decide)

/-- The meaning of a telemetry packet is to send its encoding out (R231 to R234). -/
theorem exec_telemetry {i : Instr} {type : PacketType} (hformat : i.format = .slice)
    (hnow : i.now? = none) (htype : type ∈ telemetryTypes)
    (hcode : byteAt (encode i) 0 = type.code) (s : State) :
    exec i s = .next (s.emit (.telem type.code (encode i))) := by
  have hnow' : ∀ n, i.now? = some n → n = .zero := fun n hn => by simp [hnow] at hn
  rw [exec_slice_eq_classify hformat hnow', classify_of_telemetry _ _ htype hcode]

theorem exec_idle (rest : Bytes) (s : State) : exec (.idle rest) s = .next s := rfl

/-- A slice of 256 bytes that begins with the type code of `IDLE` decodes to it (R98, R106). -/
theorem decodeSlice_idle (now : TimeStamp) {rest : Bytes} (hlen : rest.length = 255) :
    decodeSlice now (0x56 :: rest) = .ok (.idle rest) :=
  decodeSlice_encode (i := .idle rest) (beq_iff_eq.2 hlen) rfl nofun

end Sys2Proof.Machine

namespace Sys2Proof.Proofs

open Sys2Proof.Machine

/-- Settles O45: the four types take the same path, and each encoding is its layout's bytes. -/
theorem telemetryIsDispatchedWhole : Obligations.TelemetryIsDispatchedWhole := by
  refine ⟨fun g rest s => ?_, fun week tow leap rest s => ?_, fun subid data s => ?_,
    fun rest s => ?_⟩
  · exact exec_telemetry (i := .gpsTelemetry g rest) (type := .gpsTelemetry)
      rfl rfl (by decide) rfl s
  · exact exec_telemetry (i := .orientationTelemetry week tow leap rest)
      (type := .orientationTelemetry) rfl rfl (by decide) rfl s
  · exact exec_telemetry (i := .secPayloadTelemetry subid data) (type := .secPayloadTelemetry)
      rfl rfl (by decide) rfl s
  · exact exec_telemetry (i := .imageTelemetry rest) (type := .imageTelemetry)
      rfl rfl (by decide) rfl s

/-- Settles O46: the slice decodes to an idle packet, whose meaning is to do nothing. -/
theorem idleChangesNothing : Obligations.IdleChangesNothing := by
  refine ⟨exec_idle, fun now rest s hlen => ?_⟩
  rw [exec_rxSlice_of_decodeSlice (decodeSlice_idle now hlen), exec_idle]

end Sys2Proof.Proofs
end

section
/-! The reassembler (43_reassembler.md R200 to R217): one equation for each transition, the
form all transitions share, and that an open context stays open until `RESET`. -/

namespace Sys2Proof.Machine

open Sys2Proof.Spec

/-! ### The tests of the reassembler -/

theorem sameKey_eq_true_iff (ctx : Context) (h : SsdvHeader) :
    sameKey ctx h.imageId h.code = true ↔ SameImage ctx h := by
  simp [sameKey, SameImage]

theorem atCap_eq_true_iff (cap : Option Nat) (n : Nat) : atCap cap n = true ↔ cap = some n := by
  cases cap with
  | none => simp [atCap]
  | some c => rw [atCap, beq_iff_eq, Option.some_inj, eq_comm]

theorem previewDue_eq_true_iff (ncad : Half) (count : Nat) :
    previewDue ncad count = true ↔ ncad ≠ 0 ∧ count % ncad.toNat = 0 := by
  simp [previewDue]

/-! ### The transitions -/

section transitions
variable (cap : Option Nat) (now : TimeStamp) (id : Byte) (code : Word) (slice : Bytes) {s : State}

/-- The first SSDV packet opens a context (R201). -/
theorem reassemble_of_noImage (hrsm : s.rsm = .noImage) :
    reassemble cap now id code slice s =
      s.withRsm (.accumulating (openContext now id code slice)) := by
  simp only [reassemble, boundary, finalize, hrsm]

variable {ctx : Context} (hrsm : s.rsm = .accumulating ctx)
include hrsm

/-- Another key is a boundary: the open context is finalized and a new one opened (R205, R207). -/
theorem reassemble_of_other_key (hkey : sameKey ctx id code = false) :
    reassemble cap now id code slice s =
      (s.emit ctx.finalRecord).withRsm (.accumulating (openContext now id code slice)) := by
  simp only [reassemble, boundary, finalize, hrsm, hkey, Bool.false_eq_true, if_false]

/-- The same key with the buffer full overflows (R212). -/
theorem reassemble_of_full (hkey : sameKey ctx id code = true)
    (hfull : atCap cap ctx.pktCount = true) :
    reassemble cap now id code slice s = s.raise (.overflow id code) := by
  simp only [reassemble, hrsm, hkey, hfull, if_true, overflowSlice]

/-- The same key with room left appends (R203). -/
theorem reassemble_of_room (hkey : sameKey ctx id code = true)
    (hroom : atCap cap ctx.pktCount = false) :
    reassemble cap now id code slice s = appendSlice slice ctx s := by
  simp only [reassemble, hrsm, hkey, hroom, Bool.false_eq_true, if_true, if_false]

end transitions

theorem ssdvImageId_ssdvSlice (h : SsdvHeader) (rest : Bytes) :
    ssdvImageId (ssdvSlice h rest) = h.imageId := by
  change (ssdvHeaderOf (ssdvSlice h rest)).imageId = h.imageId
  rw [ssdvHeaderOf_ssdvSlice]

theorem ssdvCode_ssdvSlice (h : SsdvHeader) (rest : Bytes) :
    ssdvCode (ssdvSlice h rest) = h.code := by
  change (ssdvHeaderOf (ssdvSlice h rest)).code = h.code
  rw [ssdvHeaderOf_ssdvSlice]

/-- The meaning of an SSDV packet is the transition of its key, with the slice taken whole
(R235). -/
theorem exec_ssdv (now : TimeStamp) (h : SsdvHeader) (rest : Bytes) (s : State) :
    exec (.ssdv now h rest) s =
      .next (reassemble Config.ibufCap now h.imageId h.code (encode (.ssdv now h rest)) s) := by
  change Host.Outcome.next (handleSsdv Config.ibufCap now (ssdvSlice h rest) s) = _
  rw [handleSsdv, ssdvImageId_ssdvSlice, ssdvCode_ssdvSlice, encode]

/-- An SSDV packet is stored as 256 bytes (R97, R105). -/
theorem encode_ssdv_length (now : TimeStamp) (h : SsdvHeader) {rest : Bytes}
    (hrest : rest.length = 245) : (encode (.ssdv now h rest)).length = 256 :=
  encode_length_of_slice (beq_iff_eq.2 hrest) rfl

/-! ### What a transition stores -/

/-- The records an append emits over the buffer it leaves: a `PREVIEW` when the new count is at the
cadence (R204). -/
def previewRecords (ncad : Half) (ctx : Context) (buf : Bytes) : List Record :=
  if previewDue ncad (ctx.pktCount + 1) then
    [.preview ctx.curId ctx.curCode (ctx.pktCount + 1) buf]
  else []

theorem previewRecords_holdBufferOnly (ncad : Half) (ctx : Context) :
    HoldBufferOnly (previewRecords ncad ctx) := by
  unfold previewRecords
  cases previewDue ncad (ctx.pktCount + 1) with
  | false => exact .inl ⟨[], rfl⟩
  | true => exact .inr ⟨ctx.curId, ctx.curCode, ctx.pktCount + 1, rfl⟩

/-- A context whose buffer has the size its count gives reports, once grown, the bytes it held and
then the slice (R34, R203, R204). -/
theorem append_contents {ctx : Context} {slice : Bytes}
    (hbuf : ctx.ibuf.length = 256 * ctx.pktCount) (hslice : slice.length = 256) :
    (ctx.append slice).contents = ctx.ibuf ++ slice := by
  have hend : (ctx.append slice).ibuf = ctx.ibuf ++ slice := append_ibuf_end slice ctx hbuf
  rw [contents_eq, hend]
  rw [hend, List.length_append, hbuf, hslice, Context.append_pktCount, Nat.mul_succ]

/-- An append counts the slice, puts it at the end of the buffer, and may emit a preview (R203,
R204). -/
theorem appendSlice_eq_stored {ctx : Context} {slice : Bytes}
    (hbuf : ctx.ibuf.length = 256 * ctx.pktCount) (hslice : slice.length = 256) (s : State) :
    appendSlice slice ctx s =
      stored s { ctx with pktCount := ctx.pktCount + 1 } ctx.ibuf (previewRecords s.ncad ctx)
        slice := by
  have hgrown : ctx.append slice =
      { ctx with pktCount := ctx.pktCount + 1, ibuf := ctx.ibuf ++ slice } := by
    rw [← append_ibuf_end slice ctx hbuf]
    rfl
  have hcontents := append_contents hbuf hslice
  rcases appendSlice_cases slice ctx s with ⟨hdue, e⟩ | ⟨hdue, e⟩
  · rw [e, hgrown]
    simp [stored, previewRecords, hdue, State.withRsm]
  · rw [e, Context.previewRecord, hcontents, hgrown]
    simp [stored, previewRecords, hdue, State.withRsm, State.emit]

/-- What a transition does is settled by the key and the state: it
overflows, or it stores the slice at the end of bytes and under records that are the same for every
slice (R215). -/
theorem reassemble_overflows_or_stores (cap : Option Nat) (now : TimeStamp) (id : Byte)
    (code : Word) {s : State}
    (hbuf : ∀ ctx, s.rsm = .accumulating ctx → ctx.ibuf.length = 256 * ctx.pktCount) :
    (∀ slice, reassemble cap now id code slice s = s.raise (.overflow id code)) ∨
    ∃ ctx old recs, HoldBufferOnly recs ∧
      (old = [] ∨ ∃ held, s.rsm = .accumulating held ∧ old = held.ibuf) ∧
      ∀ slice : Bytes, slice.length = 256 →
        reassemble cap now id code slice s = stored s ctx old recs slice := by
  cases hrsm : s.rsm with
  | noImage =>
    refine .inr ⟨openContext now id code [], [], fun _ => [], .inl ⟨_, rfl⟩, .inl rfl,
      fun slice _ => ?_⟩
    rw [reassemble_of_noImage cap now id code slice hrsm]
    simp [stored, State.withRsm, openContext]
  | accumulating ctx =>
    cases hkey : sameKey ctx id code with
    | false =>
      refine .inr ⟨openContext now id code [], [], fun _ => [ctx.finalRecord], .inl ⟨_, rfl⟩,
        .inl rfl, fun slice _ => ?_⟩
      exact reassemble_of_other_key cap now id code slice hrsm hkey
    | true =>
      cases hcap : atCap cap ctx.pktCount with
      | true => exact .inl fun slice => reassemble_of_full cap now id code slice hrsm hkey hcap
      | false =>
        refine .inr ⟨{ ctx with pktCount := ctx.pktCount + 1 }, ctx.ibuf, previewRecords s.ncad ctx,
          previewRecords_holdBufferOnly _ ctx, .inr ⟨ctx, rfl, rfl⟩, fun slice hslice => ?_⟩
        rw [reassemble_of_room cap now id code slice hrsm hkey hcap]
        exact appendSlice_eq_stored (hbuf ctx hrsm) hslice s

/-! ### An open context stays open -/

theorem Rsm.bit_eq_true_iff (r : Rsm) : r.bit = true ↔ ∃ ctx, r = .accumulating ctx := by
  cases r <;> simp [Rsm.bit]

/-- Every transition ends in `Accumulating`: none closes the context it finds without opening
another (R200). -/
theorem reassemble_rsm_bit (cap : Option Nat) (now : TimeStamp) (id : Byte) (code : Word)
    (slice : Bytes) (s : State) : (reassemble cap now id code slice s).rsm.bit = true := by
  rcases reassemble_cases cap now id code slice s with
    ⟨-, e⟩ | ⟨ctx, -, -, e⟩ | ⟨ctx, hrsm, -, -, e⟩ | ⟨ctx, -, -, -, e⟩ <;> rw [e]
  · rfl
  · rfl
  · rw [State.raise_rsm, hrsm]
    rfl
  · rcases appendSlice_cases slice ctx s with ⟨-, e⟩ | ⟨-, e⟩ <;> rw [e] <;> rfl

theorem classify_rsm_bit (cap : Option Nat) (now : TimeStamp) (slice : Bytes) {s : State}
    (hs : s.rsm.bit = true) : (classify cap now slice s).rsm.bit = true := by
  rcases classify_cases cap now slice s with e | ⟨_, e⟩ | ⟨_, -, e⟩ | ⟨-, e⟩ <;> rw [e]
  · exact hs
  · exact hs
  · exact hs
  · exact reassemble_rsm_bit _ _ _ _ _ s

theorem rxSliceWith_rsm_bit (cap : Option Nat) (now : TimeStamp) (data : Bytes) {s : State}
    (hs : s.rsm.bit = true) : (rxSliceWith cap now data s).rsm.bit = true := by
  unfold rxSliceWith
  split
  · exact hs
  · exact classify_rsm_bit cap now data hs

theorem byteStep_rsm_bit (cap : Option Nat) (now : TimeStamp) (b : Byte) {s : State}
    (hs : s.rsm.bit = true) : (byteStep cap now s b).rsm.bit = true := by
  rcases byteStep_cases cap now b s with ⟨-, -, e⟩ | ⟨-, -, e⟩ | ⟨-, -, e⟩ | ⟨-, -, e⟩ <;> rw [e]
  · exact hs
  · exact hs
  · exact hs
  · rcases frameEnd_cases cap now (storeByte b s) with ⟨-, e⟩ | ⟨-, e⟩ <;> rw [e]
    · exact classify_rsm_bit cap now _ hs
    · exact hs

theorem rxRun_rsm_bit (cap : Option Nat) (now : TimeStamp) (data : Bytes) {s : State}
    (hs : s.rsm.bit = true) : (rxRun cap now data s).rsm.bit = true :=
  rxRun_induction (P := fun t => t.rsm.bit = true) cap now
    (fun _ b ht => byteStep_rsm_bit cap now b ht) data s hs

/-- No command but `RESET` closes an open context: the receive commands keep it open, and the others
leave the reassembler alone (R200, R208). -/
theorem exec_cmd_rsm_bit {i : Instr} {s t : State} (hformat : i.format = .cmd) (hi : i ≠ .reset)
    (h : exec i s = .next t) (hs : s.rsm.bit = true) : t.rsm.bit = true := by
  by_cases hreceives : (∃ now data, i = .rxBytes now data) ∨ ∃ now data, i = .rxSlice now data
  · obtain ⟨now, data, rfl⟩ | ⟨now, data, rfl⟩ := hreceives
    · cases h
      exact rxRun_rsm_bit _ now data hs
    · cases h
      exact rxSliceWith_rsm_bit _ now data hs
  · obtain ⟨hbytes, hslice⟩ := not_or.1 hreceives
    obtain ⟨u, hu, hrsm⟩ := exec_cmd_rsm hformat hi
      (fun now data e => hbytes ⟨now, data, e⟩) (fun now data e => hslice ⟨now, data, e⟩) s
    obtain rfl : u = t := Host.Outcome.next.inj (hu.symm.trans h)
    rwa [hrsm]

end Sys2Proof.Machine

namespace Sys2Proof.Proofs

open Sys2Proof.Machine Sys2Proof.Spec

/-- Settles O18: a step waits, carries out a command other than `RESET`, or refuses an illegal one,
and each of these leaves an open reassembler open. -/
theorem onlyResetClosesTheReassembler : Obligations.OnlyResetClosesTheReassembler := by
  intro s t ctx hrsm h hreset
  have hopen : s.rsm.bit = true := (Rsm.bit_eq_true_iff _).2 ⟨ctx, hrsm⟩
  refine (Rsm.bit_eq_true_iff _).1 ?_
  rcases step_cases s t h with ⟨-, rfl⟩ | ⟨f, i, hf, hi, hexec⟩ | ⟨f, -, hf, -, rfl⟩
  · exact hopen
  · have hne : i ≠ .reset := fun e => hreset ⟨f, hf, e ▸ hi⟩
    obtain ⟨p, hp⟩ := fetch_state s f hf
    rw [hp] at hexec
    exact exec_cmd_rsm_bit (decodeCommand_format _ _ _ i hi) hne hexec hopen
  · obtain ⟨p, hp⟩ := fetch_state s f hf
    rw [hp]
    exact hopen

/-- Settles O47: both transitions open the packet's context, and the second finalizes first, with a
buffer that its count covers. -/
theorem ssdvWithAnotherKeyIsABoundary : Obligations.SsdvWithAnotherKeyIsABoundary := by
  intro now h rest s
  refine ⟨fun hrsm => ?_, fun ctx hrsm hbuf hother => ?_⟩
  · rw [exec_ssdv, reassemble_of_noImage _ now _ _ _ hrsm]
    rfl
  · have hkey : sameKey ctx h.imageId h.code = false :=
      Bool.eq_false_iff.2 fun e => hother ((sameKey_eq_true_iff ctx h).1 e)
    rw [exec_ssdv, reassemble_of_other_key _ now _ _ _ hrsm hkey, Context.finalRecord,
      contents_eq ctx hbuf]
    rfl

/-- Settles O48: the capacity is tested first; with room left the slice goes to the end of the
buffer and the cadence is tested on the new count. -/
theorem ssdvWithTheSameKeyIsAppended : Obligations.SsdvWithTheSameKeyIsAppended := by
  intro now h rest s ctx hrsm hbuf hrest hsame
  have hkey : sameKey ctx h.imageId h.code = true := (sameKey_eq_true_iff ctx h).2 hsame
  rw [exec_ssdv]
  by_cases hfull : Config.ibufCap = some ctx.pktCount
  · rw [if_pos hfull,
      reassemble_of_full _ now _ _ _ hrsm hkey ((atCap_eq_true_iff _ _).2 hfull)]
    rfl
  · have hroom : atCap Config.ibufCap ctx.pktCount = false :=
      Bool.eq_false_iff.2 fun e => hfull ((atCap_eq_true_iff _ _).1 e)
    rw [if_neg hfull, reassemble_of_room _ now _ _ _ hrsm hkey hroom,
      appendSlice_eq_stored hbuf (encode_ssdv_length now h hrest)]
    simp only [stored, previewRecords, previewDue_eq_true_iff]

/-- Settles O50: the two packets cause the same transition, which is settled by the key and the
state before the slice is looked at. -/
theorem reassemblerReadsOnlyTheKey : Obligations.ReassemblerReadsOnlyTheKey := by
  intro now g h p q s hcode hid hp hq hbuf
  have hgp := encode_ssdv_length now g hp
  have hhq := encode_ssdv_length now h hq
  rw [exec_ssdv, exec_ssdv, hcode, hid]
  obtain hover | ⟨ctx, old, recs, hrecs, hold, hstores⟩ :=
    reassemble_overflows_or_stores Config.ibufCap now h.imageId h.code hbuf
  · exact .inl ⟨_, congrArg _ (hover _), congrArg _ (hover _), State.raise_rsm s _⟩
  · exact .inr ⟨ctx, old, recs, hrecs, hold, hgp, hhq, congrArg _ (hstores _ hgp),
      congrArg _ (hstores _ hhq)⟩

end Sys2Proof.Proofs
end

section
/-! The codes an encoder computes for a callsign (30_encoding.md R107, 44_packet_types.md R238), and
the length test of a text packet (44_packet_types.md R230). -/

namespace Sys2Proof.Machine

open Sys2Proof.Spec

/-! ### The callsign code of a string -/

/-- The code an encoder computes is the number its base-40 digits stand for (R107, R238). -/
theorem callCode_eq_ofDigits (ds : List Nat) : callCode ds = Nat.ofDigits 40 ds := by
  induction ds with
  | nil => rfl
  | cons d ds ih => rw [callCode, ih, Nat.ofDigits_cons]

/-- A last digit 0 is lost in the code (R238). -/
theorem callCode_append_zero (ds : List Nat) : callCode (ds ++ [0]) = callCode ds := by
  rw [callCode_eq_ofDigits, callCode_eq_ofDigits, Nat.ofDigits_append_zero]

/-- Six base-40 digits fit a 32-bit code (R107). -/
theorem callCode_lt_of_length_le_six {ds : List Nat} (hlen : ds.length ≤ 6)
    (hdigits : ∀ d ∈ ds, d < 40) : callCode ds < 2 ^ 32 :=
  calc callCode ds = Nat.ofDigits 40 ds := callCode_eq_ofDigits ds
    _ < 40 ^ ds.length := Nat.ofDigits_lt_base_pow_length (by decide) hdigits
    _ ≤ 40 ^ 6 := Nat.pow_le_pow_right (by decide) hlen
    _ < 2 ^ 32 := by decide

/-- The character of digit 0 is `-`, so digits whose string does not end in `-` do not end in 0
(R107). -/
theorem getLast_ne_zero_of_map_callChar {ds : List Nat}
    (hlast : (ds.map callChar).getLast? ≠ some '-') (hne : ds ≠ []) : ds.getLast hne ≠ 0 := by
  intro hzero
  refine hlast ?_
  rw [List.getLast?_map, List.getLast?_eq_some_getLast hne, hzero]
  rfl

/-- A number that fits a code is decoded to the characters of its base-40 digits (R237). -/
theorem callDecode_ofNat {n : Nat} (h : n < 2 ^ 32) :
    callDecode (BitVec.ofNat 32 n) = (Nat.digits 40 n).map callChar := by
  rw [callDecode, BitVec.toNat_ofNat, Nat.mod_eq_of_lt h]
  exact callDigits_eq_map_digits 7 n (h.trans (by decide))

/-! ### The text packet -/

/-- The meaning of a text packet is its handler on its encoding (R230). -/
theorem exec_textMessage (length : Byte) (seq : Half) (rest : Bytes) (s : State) :
    exec (.textMessage length seq rest) s =
      .next (handleText (encode (.textMessage length seq rest)) s) := rfl

/-- The length the handler tests is the packet's `length` field (R100). -/
theorem textLength_encode (length : Byte) (seq : Half) (rest : Bytes) :
    textLength (encode (.textMessage length seq rest)) = length := rfl

/-- A text that ends within its slice is passed on whole (R230). -/
theorem handleText_of_length_le {slice : Bytes} (h : (textLength slice).toNat ≤ 252) (s : State) :
    handleText slice s = s.emit (.telem 0x00 slice) :=
  if_neg (Nat.not_lt.2 h)

/-- A text that would reach beyond its slice is refused with its type and length (R230). -/
theorem handleText_of_lt_length {slice : Bytes} (h : 252 < (textLength slice).toNat) (s : State) :
    handleText slice s = withError 0x06 5 (.typeAndField 0x00 (textLength slice)) s :=
  if_pos h

end Sys2Proof.Machine

namespace Sys2Proof.Proofs

open Sys2Proof.Machine

/-- Settles O53: the code of at most six digits is below 2 to the power 32, and a number determines
its base-40 digits when the last of them is not 0. -/
theorem callsignRoundTrip : Obligations.CallsignRoundTrip := by
  refine ⟨by decide, by decide, by decide, by decide, by decide, by decide,
    fun ds hlen hdigits hlast => ?_, fun ds => ?_⟩
  · have hback : Nat.digits 40 (Nat.ofDigits 40 ds) = ds :=
      Nat.digits_ofDigits 40 (by decide) ds hdigits fun hne =>
        getLast_ne_zero_of_map_callChar hlast hne
    rw [callDecode_ofNat (callCode_lt_of_length_le_six hlen hdigits), callCode_eq_ofDigits, hback]
  · rw [callCode_append_zero]

/-- Settles O44: the handler tests the packet's length and either passes on its encoding, which is
the layout's bytes, or raises the error. -/
theorem textMessageIsDispatchedOrRefused : Obligations.TextMessageIsDispatchedOrRefused := by
  intro length seq rest s
  rw [exec_textMessage]
  refine ⟨fun hle => ?_, fun hlt => ?_⟩
  · rw [handleText_of_length_le (by rwa [textLength_encode])]
    rfl
  · rw [handleText_of_lt_length (by rwa [textLength_encode]), textLength_encode]

end Sys2Proof.Proofs
end

section
/-! The system commands and the wait for a whole command (45_system_ops.md R260 to R263): when nothing
is taken off the port, which header each system operation refuses, and what `RESET`, `SET_CONFIG`
and `GET_STATUS` leave. -/

namespace Sys2Proof

/-! ### Headers refused -/

/-- The operation code of an operation (R109). -/
def CmdOp.code : CmdOp → Byte
  | .fecEncode => 0x01
  | .crc16 => 0x02
  | .frame => 0x03
  | .rxBytes => 0x10
  | .rxSlice => 0x11
  | .reset => 0x20
  | .setConfig => 0x21
  | .getStatus => 0x22

/-- The operation whose row has a code, whatever else the row asks for (R109). -/
def opOfCode (code : Byte) : Option CmdOp :=
  (cmdTable.find? fun r => headerOp r.pattern == code).map (·.op)

theorem opOfCode_code (o : CmdOp) : opOfCode o.code = some o := by
  cases o <;> rfl

theorem CmdOp.code_injective : Function.Injective CmdOp.code := fun o o' h => by
  have hsome : some o = some o' := by rw [← opOfCode_code o, h, opOfCode_code o']
  exact Option.some.inj hsome

theorem CmdOp.Admits.op_eq_code {o : CmdOp} {op flags : Byte} {len : Half}
    (h : o.Admits op flags len) : op = o.code := by
  cases o <;> exact h.1

/-- A header with an operation's code is illegal when its flags or its length are not those of that
operation's row: no other row has the code (R109, R110). -/
theorem decodeCommand_of_not_admits (now : TimeStamp) {o : CmdOp} {flags : Byte} {len : Half}
    (data : Bytes) (h : ¬ o.Admits o.code flags len) :
    decodeCommand now (quad32 o.code flags (hi8 len) (lo8 len)) data =
      .error (.illegalHeader (quad32 o.code flags (hi8 len) (lo8 len))) := by
  refine decodeCommand_of_opOfHeader_eq_none now _ data
    (Option.eq_none_iff_forall_ne_some.2 fun o' ho' => ?_)
  have hadmits := (opOfHeader_eq_some_iff o.code flags len o').1 ho'
  obtain rfl : o = o' := CmdOp.code_injective hadmits.op_eq_code
  exact h hadmits

/-! ### Commands not yet whole -/

/-- Bytes that end within a header are no whole command (R108, R260). -/
theorem takeCommand_of_length_lt_four {bytes : Bytes} (h : bytes.length < 4) :
    takeCommand bytes = none := by
  refine Option.eq_none_iff_forall_ne_some.2 fun c hc => ?_
  obtain ⟨b0, b1, b2, b3, rfl, -, -⟩ := takeCommand_some bytes c hc
  simp only [List.length_append, List.length_cons] at h
  omega

end Sys2Proof

namespace Sys2Proof.Machine

open Sys2Proof.Spec

theorem step_of_fetch_eq_none {s : State} (h : fetch s = none) : step s = .next s := by
  simp only [step, h]

theorem fetch_of_port_eq_nil {s : State} (h : s.port = []) : fetch s = none := by
  simp only [fetch, h]

/-- Nothing is fetched while the first offer holds no whole command (R260). -/
theorem fetch_of_takeCommand_eq_none {s : State} {offer : Offer} {rest : List Offer}
    (hport : s.port = offer :: rest) (htake : takeCommand offer.bytes = none) : fetch s = none := by
  simp only [fetch, hport, htake]

/-! ### `SET_CONFIG` -/

/-- The reserved bits of a `CFG` value are 0 for the values 0 and 1 only (R22). -/
theorem cfgReserved_eq_zero_iff (cfg : Byte) : cfgReserved cfg = 0 ↔ cfg = 0 ∨ cfg = 1 := by
  rw [cfgReserved, BitVec.toNat_eq, BitVec.toNat_eq]
  simp only [BitVec.reduceToNat]
  omega

theorem exec_setConfig (cfg : Byte) (ncad : Half) (s : State) :
    exec (.setConfig cfg ncad) s = .next (configure cfg ncad s) := rfl

/-- A configuration without reserved bits is written (R262). -/
theorem configure_of_legal {cfg : Byte} (h : cfg = 0 ∨ cfg = 1) (ncad : Half) (s : State) :
    configure cfg ncad s = { s with cfg := cfg, ncad := ncad } :=
  if_neg (not_not_intro ((cfgReserved_eq_zero_iff cfg).2 h))

/-- A configuration with a reserved bit is refused with the header of `SET_CONFIG` (R262). -/
theorem configure_of_reserved {cfg : Byte} (h : ¬ (cfg = 0 ∨ cfg = 1)) (ncad : Half) (s : State) :
    configure cfg ncad s = withError 0x01 0 (.header 0x21000003) s :=
  if_pos (mt (cfgReserved_eq_zero_iff cfg).1 h)

/-! ### `GET_STATUS` -/

theorem exec_getStatus (s : State) : exec .getStatus s = .next (s.emit (statusRecord s)) := rfl

theorem statusRecord_of_rsm {s : State} {r : Rsm} (h : s.rsm = r) :
    statusRecord s = .status s.cfg s.ncad s.esticky s.elast s.rxfState r.status := by
  rw [statusRecord, h]

end Sys2Proof.Machine

namespace Sys2Proof.Proofs

open Sys2Proof.Machine Sys2Proof.Spec

/-- Settles O8: in each of the three cases no command is taken off the port, so none is fetched. -/
theorem stepWaitsForAWholeCommand : Obligations.StepWaitsForAWholeCommand := by
  refine ⟨fun s hport => ?_, fun s offer rest hport hshort => ?_,
    fun s now op flags len data rest hport hshort => ?_⟩
  · exact step_of_fetch_eq_none (fetch_of_port_eq_nil hport)
  · have htake := takeCommand_of_length_lt_four hshort
    exact step_of_fetch_eq_none (fetch_of_takeCommand_eq_none hport htake)
  · have htake := takeCommand_partial op flags len data hshort
    exact step_of_fetch_eq_none (fetch_of_takeCommand_eq_none hport htake)

/-- Settles O55: `RESET` writes its registers, and its row asks for no flags and no data. -/
theorem resetCommandResets : Obligations.ResetCommandResets := by
  refine ⟨fun s => rfl, fun now flags len data hfields => ?_⟩
  exact decodeCommand_of_not_admits now (o := .reset) data fun hadmits =>
    not_and_or.2 hfields hadmits.2

/-- Settles O56: the reserved bits decide between the two outcomes; the row of `SET_CONFIG` asks for
no flags and three data bytes, which are the operands. -/
theorem setConfigWritesBothOrNeither : Obligations.SetConfigWritesBothOrNeither := by
  refine ⟨fun cfg ncad s hlegal => ?_, fun cfg ncad s h0 h1 => ?_, fun now c n1 n0 => ?_,
    fun now flags len data hfields => ?_⟩
  · rw [exec_setConfig, configure_of_legal hlegal]
  · rw [exec_setConfig, configure_of_reserved (not_or_intro h0 h1)]
  · exact decodeCommand_of_admits now (o := .setConfig) (len := 3) [c, n1, n0] ⟨rfl, rfl, rfl⟩
  · exact decodeCommand_of_not_admits now (o := .setConfig) data fun hadmits =>
      not_and_or.2 hfields hadmits.2

/-- Settles O57: the one record emitted shows the registers and what the reassembler holds; the row
of `GET_STATUS` asks for no flags and no data. -/
theorem getStatusReportsAndChangesNothing : Obligations.GetStatusReportsAndChangesNothing := by
  refine ⟨fun s hclosed => ?_, fun s ctx hopen => ?_, fun now flags len data hfields => ?_⟩
  · rw [exec_getStatus, statusRecord_of_rsm hclosed]
    rfl
  · rw [exec_getStatus, statusRecord_of_rsm hopen]
    rfl
  · exact decodeCommand_of_not_admits now (o := .getStatus) data fun hadmits =>
      not_and_or.2 hfields hadmits.2

end Sys2Proof.Proofs
end

section
/-! Raising errors (60_exceptions.md): raising writes the row of the error's table, and leaves a sticky
bit by which an error-free state shows that nothing was raised; no step faults or is refused. -/

namespace Sys2Proof.Machine

open Sys2Proof.Spec

/-! ### The error table -/

/-- Raising an error is R290 with the code, the sticky bit and the info of its row of R281. -/
theorem raise_eq_withError (e : BlockError) (s : State) :
    s.raise e = withError e.code e.stickyBit e.info s := rfl

/-! ### Error-free states -/

theorem stickyBit_lt_eight (e : BlockError) : e.stickyBit < 8 := by
  by_cases he : e = .callsign
  · subst he
    decide
  · exact (stickyBit_lt_seven he).trans (by decide)

/-- `ESTICKY` is not 0 right after an error: the bit of that error is set (R24, R290). -/
theorem stickyAfter_ne_zero (v : Byte) (e : BlockError) : stickyAfter v e ≠ 0 := by
  intro hzero
  have hset : (stickyAfter v e).getLsbD e.stickyBit = true := by
    rw [stickyAfter_bit v e _ (stickyBit_lt_eight e)]
    simp
  rw [hzero] at hset
  exact absurd hset (by simp)

/-- Where reporting ends in an error-free state, it began in one and reported no error (R303). -/
theorem Reports.of_errorFree {s t : State} (h : Reports s t) (hfree : ErrorFree t) :
    ErrorFree s ∧ t.elast = s.elast ∧
      ∃ recs, t.out = s.out ++ recs ∧ ∀ r ∈ recs, r.isError = false := by
  induction h with
  | quiet out sticky last => exact ⟨sticky.symm.trans hfree, last, [], by simpa using out, nofun⟩
  | record r kind out sticky last =>
    exact ⟨sticky.symm.trans hfree, last, [r], out, List.forall_mem_singleton.2 kind⟩
  | error e out sticky last => exact absurd (sticky.symm.trans hfree) (stickyAfter_ne_zero _ e)
  | trans _ _ first second =>
    obtain ⟨hmid, hlast', recs', hout', hquiet'⟩ := second hfree
    obtain ⟨hstart, hlast, recs, hout, hquiet⟩ := first hmid
    exact ⟨hstart, hlast'.trans hlast, recs ++ recs', by rw [hout', hout, List.append_assoc],
      List.forall_mem_append.2 ⟨hquiet, hquiet'⟩⟩

end Sys2Proof.Machine

namespace Sys2Proof.Proofs

open Sys2Proof.Machine Sys2Proof.Spec

/-- Settles O16: a step that takes no `RESET` only reports, and a reported error would leave its sticky
bit set. -/
theorem noStickyBitMeansNoError : Obligations.NoStickyBitMeansNoError := by
  intro s t h hr hfree
  obtain ⟨hstart, hlast, recs, hout, hquiet⟩ := (step_reports s t h hr).of_errorFree hfree
  exact ⟨hstart, hlast, by rwa [newRecords_of_out hout]⟩

/-- Settles O10: a step waits, runs an instruction, each of which answers a next state, or refuses an
illegal header by raising an error. -/
theorem everyStepReachesANextState : Obligations.EveryStepReachesANextState := by
  intro s
  cases hf : fetch s with
  | none => exact ⟨s, step_of_fetch_eq_none hf⟩
  | some f =>
    cases hi : decodeCommand f.now f.header f.data with
    | ok i =>
      rw [step_of_fetch_of_decode s f i hf hi]
      exact exec_total i f.state
    | error e => exact ⟨illegalCommand f.header f.state, by simp only [step, hf, hi]⟩

/-- Settles O58: each clause is the row of one error. -/
theorem raisingFollowsTheErrorTable : Obligations.RaisingFollowsTheErrorTable := by
  intro s
  exact ⟨fun h => raise_eq_withError (.cmd h) s, fun n => raise_eq_withError (.fecLen n) s,
    fun c r => raise_eq_withError (.crc c r) s, fun n => raise_eq_withError (.sliceLen n) s,
    fun b => raise_eq_withError (.packetType b) s,
    fun t f => raise_eq_withError (.packetStruct t f) s,
    fun i c => raise_eq_withError (.overflow i c) s⟩

end Sys2Proof.Proofs
end
